-- ==== Sys2Proof/Word.lean ====
section
/-! DEFINITION. The word types of the block and the names of its callable functions. -/

namespace Sys2Proof

/-- A byte (R6): the width of `code`, of a table entry and of an output byte (R5). -/
abbrev Byte := BitVec 8

/-- The 7-bit key identity, also the 7-bit index of either table (R5, R22, R23). -/
abbrev KeyCode := BitVec 7

/-- The 9-bit operation word, `use_set1` above `code` (R35). -/
abbrev OpWord := BitVec 9

/-- The packed result `res` (R5, R76). -/
abbrev Packed := BitVec 24

/-- The two address spaces (R21). -/
inductive Space where
  | t1
  | t2
deriving DecidableEq, Repr

/-- The six functions the source names (R43). `toPS2` is the translation itself; `getKey`, `isBreak` and `isMake` are
the helper taps; the last two are the internal table reads. DESIGN CHOICE (log 3): the spec selects among these by
nothing, since taps and reads are always active (R38), so the host's choice is a value of this type. -/
inductive Call where
  | toPS2
  | getKey
  | isBreak
  | isMake
  | stToPS2Set1
  | ps2Set1ToSet2
deriving DecidableEq, Repr

end Sys2Proof
end

