-- ==== Sys2Proof/Config.lean ====
section
/-! DEFINITION. The open parameters of the block: the table entries the spec does not fix (R5, R52, D1). -/

namespace Sys2Proof

/-- The entries of table T1 that the spec leaves open, by index (R52, N1). No value of it can be proved.
DESIGN CHOICE (log 5): a free value. -/
opaque Config.t1Open : Nat → BitVec 8

/-- The entries of table T2 that the spec leaves open, by index (R52, N1). No value of it can be proved.
DESIGN CHOICE (log 5): a free value. -/
opaque Config.t2Open : Nat → BitVec 8

end Sys2Proof
end

