-- ==== Sys2Proof/Machine/State.lean ====
section
/-! DEFINITION. The state of the model, the signals of an evaluation, the reasons a step can stop, and the state at
power-up. -/

namespace Sys2Proof.Machine

/-- A table as a list of (index, byte) cells, indices strictly rising; what an unlisted cell reads as is
`Memory.unlisted` (log 4). -/
abbrev Memory := List Host.Cell

/-- The internal combinational values of R16 that are not ports. `arrow` is none when the key is no arrow, where R64 does
not define it. DEDUCED (log 14). -/
structure Wires where
  t1 : Byte
  t2 : Byte
  base : Byte
  isExt : Bool
  arrow : Option Byte
  payload : Byte
deriving DecidableEq, Repr

/-- The output ports (R19). -/
structure Ports where
  res : Packed
  len : BitVec 2
  seq0 : Byte
  seq1 : Byte
  seq2 : Byte
  key : KeyCode
  isBreak : Bool
  isMake : Bool
deriving DecidableEq, Repr

/-- What an evaluation presents: nothing yet, the signals of a translation, or the answer of a tap or of a table read
(R43). -/
inductive Result where
  | idle
  | translated (wires : Wires) (ports : Ports)
  | key (b : Byte)
  | isBreak (b : Bool)
  | isMake (b : Bool)
  | set1Code (b : Byte)
  | set2Code (b : Byte)
deriving DecidableEq, Repr

/-- The four layouts of the packed result (R40): payload; break prefix and payload; extended prefix and payload; extended
prefix, break prefix and payload. -/
inductive Layout where
  | p
  | fp
  | ep
  | efp
deriving DecidableEq, Repr

/-- The state of the model. The block itself holds none that changes (R9): the tables are its parameters (R14), `call`,
`code` and `useSet1` are what the host presents (R18), and `result` is what the last evaluation presented, which nothing
reads (R10). DESIGN CHOICE (logs 2, 3, 4). -/
structure State where
  t1Cells : Memory
  t2Cells : Memory
  call : Call
  code : Byte
  useSet1 : Bool
  result : Result
deriving DecidableEq, Repr

/-- The faults of the block: none. "The complete list of exceptions of this block is empty" (R110), so no constructor,
and no step of the model can raise one. -/
inductive Fault where
deriving DecidableEq, Repr

/-- The refusals of the model. -/
inductive Refusal where
  /-- An operation that has no meaning in the model yet. Raised by no arm: every row of the table has its meaning.
  It would be safe, since no claim about a next state could be proved of it. -/
  | notModelled (mnemonic : String)
deriving DecidableEq, Repr

/-- The model at power-up: both tables as built (nothing listed, so every cell reads as the parameter, R123), nothing
evaluated yet (R20). DESIGN CHOICE (log 7): the spec gives the inputs no value at power-up ("the host chooses them",
R20); they stand at `toPS2`, 0x00, false until the host presents others. -/
def State.reset : State where
  t1Cells := []
  t2Cells := []
  call := .toPS2
  code := 0x00
  useSet1 := false
  result := .idle

end Sys2Proof.Machine
end

