-- ==== Sys2Proof/Machine/Ops.lean ====
section
/-! DEFINITION. Named operations over the tables and over the answer of an evaluation. The block takes no exception and
returns from none (R110, R114, R115), so there is no operation for either. -/

namespace Sys2Proof.Machine

/-! ## The tables (20_memory.md, 41_rom_tables.md) -/

/-- What an unlisted cell of T1 reads as: the entries fixed by R53, the zero range of R54 (log 6), else the open
parameter with bit 7 clear, as R57 asks (log 5). -/
def t1Unlisted (a : Nat) : Byte :=
  if a = 0x00 then 0x00
  else if a = 0x1E then 0x1E
  else if 0x45 ≤ a ∧ a ≤ 0x64 then 0x00
  else Config.t1Open a &&& 0x7F

/-- What an unlisted cell of T2 reads as: 0 at index 0 (R56), else the open parameter, any byte (R58). -/
def t2Unlisted (a : Nat) : Byte := if a = 0x00 then 0x00 else Config.t2Open a

/-- What an unlisted cell of a space reads as. -/
def Memory.unlisted (sp : Space) (a : Nat) : Byte :=
  match sp with
  | .t1 => t1Unlisted a
  | .t2 => t2Unlisted a

/-- The listed byte at an index, if there is one. -/
def Memory.lookup : Memory → Nat → Option Byte
  | [], _ => none
  | (x, b) :: rest, a => if x = a then some b else Memory.lookup rest a

/-- One cell of a space (R28: a read is one whole cell and has no effect). Every 7-bit index is valid (R26). -/
def Memory.read (sp : Space) (m : Memory) (i : KeyCode) : Byte :=
  (Memory.lookup m i.toNat).getD (Memory.unlisted sp i.toNat)

/-- The canonical form: indices strictly rising and below 128, and no cell listed with the byte it would read as
unlisted (log 4). -/
abbrev Memory.wf (sp : Space) (m : Memory) : Prop :=
  m.Pairwise (fun x y => x.1 < y.1) ∧ ∀ c ∈ m, c.1 < 128 ∧ c.2 ≠ Memory.unlisted sp c.1

/-- The list without a cell at `a`. -/
def Memory.erase (m : Memory) (a : Nat) : Memory := m.filter (fun c => c.1 ≠ a)

/-- The list with `b` at `a`, order kept. -/
def Memory.put : Memory → Nat → Byte → Memory
  | [], a, b => [(a, b)]
  | (x, y) :: rest, a, b =>
    if a < x then (a, b) :: (x, y) :: rest
    else if a = x then (a, b) :: rest
    else (x, y) :: Memory.put rest a b

/-- Fill one cell. No operation of the block writes a table (R24): this is the building of the ROM, before the block can
be evaluated (R123, R133). DESIGN CHOICE (log 20). -/
def Memory.write (sp : Space) (m : Memory) (i : KeyCode) (b : Byte) : Memory :=
  if b = Memory.unlisted sp i.toNat then Memory.erase m i.toNat else Memory.put m i.toNat b

/-- The cells of a space. -/
def State.cells (s : State) (sp : Space) : Memory :=
  match sp with
  | .t1 => s.t1Cells
  | .t2 => s.t2Cells

/-- `MemRead(space, i, 1)` of R6. -/
def State.memRead (s : State) (sp : Space) (i : KeyCode) : Byte := Memory.read sp (s.cells sp) i

/-- The table T1 of a state as a function of the index (R22). -/
def State.tableT1 (s : State) (i : KeyCode) : Byte := s.memRead .t1 i

/-- The table T2 of a state as a function of the index (R23). -/
def State.tableT2 (s : State) (i : KeyCode) : Byte := s.memRead .t2 i

/-! ## The answer of an evaluation -/

/-- The state with a new answer and nothing else changed (R9: an evaluation leaves no other trace). -/
def State.withResult (s : State) (r : Result) : State := { s with result := r }

/-- The extended prefix byte (R36). -/
def extendedPrefix : Byte := 0xE0

/-- The break prefix byte (R36). -/
def breakPrefix : Byte := 0xF0

/-- The layout for (`is_ext`, `is_break`) (R40). -/
def Layout.of (isExt isBreak : Bool) : Layout :=
  match isExt, isBreak with
  | false, false => .p
  | false, true => .fp
  | true, false => .ep
  | true, true => .efp

/-- The packed result of a layout, byte by byte from the top (R40, R76). -/
def Layout.res (l : Layout) (payload : Byte) : Packed :=
  match l with
  | .p => 0x00#8 ++ 0x00#8 ++ payload
  | .fp => 0x00#8 ++ breakPrefix ++ payload
  | .ep => 0x00#8 ++ extendedPrefix ++ payload
  | .efp => extendedPrefix ++ breakPrefix ++ payload

/-- The number of bytes of a layout (R40, R77). -/
def Layout.len : Layout → BitVec 2
  | .p => 1
  | .fp => 2
  | .ep => 2
  | .efp => 3

/-- The first byte to send (R41). -/
def Layout.seq0 (l : Layout) (payload : Byte) : Byte :=
  match l with
  | .p => payload
  | .fp => breakPrefix
  | .ep => extendedPrefix
  | .efp => extendedPrefix

/-- The second byte to send, 0x00 where there is none (R41; R78 and D7 for the unused slot, log 9). -/
def Layout.seq1 (l : Layout) (payload : Byte) : Byte :=
  match l with
  | .p => 0x00
  | .fp => payload
  | .ep => payload
  | .efp => breakPrefix

/-- The third byte to send, 0x00 where there is none (R41; R78 and D7 for the unused slot, log 9). -/
def Layout.seq2 (l : Layout) (payload : Byte) : Byte :=
  match l with
  | .p => 0x00
  | .fp => 0x00
  | .ep => 0x00
  | .efp => payload

/-- The output ports for a key, a break flag, a layout and a payload (R19). -/
def Layout.ports (l : Layout) (key : KeyCode) (isBreak : Bool) (payload : Byte) : Ports where
  res := l.res payload
  len := l.len
  seq0 := l.seq0 payload
  seq1 := l.seq1 payload
  seq2 := l.seq2 payload
  key := key
  isBreak := isBreak
  isMake := !isBreak

/-- The output sequence: the first `len` slots (R41, R78). -/
def Ports.seq (o : Ports) : List Byte := [o.seq0, o.seq1, o.seq2].take o.len.toNat

/-- A translate operation, the operation having decided the set, the break flag, the key and, for an arrow, the hard-coded
payload. Both tables are read (R61), T2 at the low seven bits of the T1 value (R27, R59; log 8); the set selects the base
payload (R60); an arrow payload overrides it (R65); the answer replaces the one before it whole (R124). -/
def State.translate (s : State) (set1 isBreak : Bool) (key : KeyCode) (arrow : Option Byte) : State :=
  let t1 := s.memRead .t1 key
  let t2 := s.memRead .t2 (t1.extractLsb' 0 7)
  let base := if set1 then t1 else t2
  let payload := arrow.getD base
  s.withResult (.translated
    { t1 := t1, t2 := t2, base := base, isExt := arrow.isSome, arrow := arrow, payload := payload }
    ((Layout.of arrow.isSome isBreak).ports key isBreak payload))

end Sys2Proof.Machine
end

