-- ==== Sys2Proof/Machine/Arrow.lean ====
section
/-! DEFINITION. The sixteen arrow operations (46_arrow_operations.md). Each has its payload as a constant of its own, from
its rule. -/

namespace Sys2Proof.Machine

/-- `UP.S1.MK` (R92). -/
def execUpS1Mk (s : State) : Host.Outcome State Fault Refusal :=
  .next (s.translate true false 0x48#7 (some 0x48#8))

/-- `UP.S1.BR` (R93). -/
def execUpS1Br (s : State) : Host.Outcome State Fault Refusal :=
  .next (s.translate true true 0x48#7 (some 0x48#8))

/-- `UP.S2.MK` (R94). -/
def execUpS2Mk (s : State) : Host.Outcome State Fault Refusal :=
  .next (s.translate false false 0x48#7 (some 0x75#8))

/-- `UP.S2.BR` (R95). -/
def execUpS2Br (s : State) : Host.Outcome State Fault Refusal :=
  .next (s.translate false true 0x48#7 (some 0x75#8))

/-- `DOWN.S1.MK` (R96). -/
def execDownS1Mk (s : State) : Host.Outcome State Fault Refusal :=
  .next (s.translate true false 0x50#7 (some 0x50#8))

/-- `DOWN.S1.BR` (R97). -/
def execDownS1Br (s : State) : Host.Outcome State Fault Refusal :=
  .next (s.translate true true 0x50#7 (some 0x50#8))

/-- `DOWN.S2.MK` (R98). -/
def execDownS2Mk (s : State) : Host.Outcome State Fault Refusal :=
  .next (s.translate false false 0x50#7 (some 0x72#8))

/-- `DOWN.S2.BR` (R99). -/
def execDownS2Br (s : State) : Host.Outcome State Fault Refusal :=
  .next (s.translate false true 0x50#7 (some 0x72#8))

/-- `LEFT.S1.MK` (R100). -/
def execLeftS1Mk (s : State) : Host.Outcome State Fault Refusal :=
  .next (s.translate true false 0x4B#7 (some 0x4B#8))

/-- `LEFT.S1.BR` (R101). -/
def execLeftS1Br (s : State) : Host.Outcome State Fault Refusal :=
  .next (s.translate true true 0x4B#7 (some 0x4B#8))

/-- `LEFT.S2.MK` (R102). -/
def execLeftS2Mk (s : State) : Host.Outcome State Fault Refusal :=
  .next (s.translate false false 0x4B#7 (some 0x6B#8))

/-- `LEFT.S2.BR` (R103). -/
def execLeftS2Br (s : State) : Host.Outcome State Fault Refusal :=
  .next (s.translate false true 0x4B#7 (some 0x6B#8))

/-- `RIGHT.S1.MK` (R104). -/
def execRightS1Mk (s : State) : Host.Outcome State Fault Refusal :=
  .next (s.translate true false 0x4D#7 (some 0x4D#8))

/-- `RIGHT.S1.BR` (R105). -/
def execRightS1Br (s : State) : Host.Outcome State Fault Refusal :=
  .next (s.translate true true 0x4D#7 (some 0x4D#8))

/-- `RIGHT.S2.MK` (R106). -/
def execRightS2Mk (s : State) : Host.Outcome State Fault Refusal :=
  .next (s.translate false false 0x4D#7 (some 0x74#8))

/-- `RIGHT.S2.BR` (R107). -/
def execRightS2Br (s : State) : Host.Outcome State Fault Refusal :=
  .next (s.translate false true 0x4D#7 (some 0x74#8))

end Sys2Proof.Machine
end

