-- ==== Sys2Proof/Machine/TableReads.lean ====
section
/-! DEFINITION. The internal table reads (45_operations.md section 3). -/

namespace Sys2Proof.Machine

/-- `ST2S1 i` (R90): `MemRead(T1, i, 1)`. -/
def execSt2s1 (i : KeyCode) (s : State) : Host.Outcome State Fault Refusal :=
  .next (s.withResult (.set1Code (s.memRead .t1 i)))

/-- `S12S2 i` (R91): `MemRead(T2, i, 1)`. -/
def execS12s2 (i : KeyCode) (s : State) : Host.Outcome State Fault Refusal :=
  .next (s.withResult (.set2Code (s.memRead .t2 i)))

end Sys2Proof.Machine
end

