-- ==== Sys2Proof/Machine/Flags.lean ====
section
/-! DEFINITION. The three predicates of the block (R12). None is a stored flag and no operation writes one. -/

namespace Sys2Proof.Machine

/-- `isBreak = (code & 0x80) != 0` (R46). -/
def isBreakFlag (code : Byte) : Bool := (code &&& 0x80) != 0

/-- `isMake`, the negation (R44, R47). -/
def isMakeFlag (code : Byte) : Bool := !isBreakFlag code

/-- `is_ext`: the key is one of the four arrow KeyCodes (R63, R68). -/
def isExtFlag (key : KeyCode) : Bool := key == 0x48 || key == 0x50 || key == 0x4B || key == 0x4D

end Sys2Proof.Machine
end

