-- ==== Sys2Proof/Syntax.lean ====
section
/-! DEFINITION. The operations of the block: one constructor per row of spec/opcode_table.json (R38). -/

namespace Sys2Proof

/-- The 16 arrow operations (R92 to R107), the 4 general translate operations with their KeyCode (R83 to R86), the
3 helper taps with their byte (R87 to R89) and the 2 internal table reads with their index (R90, R91). -/
inductive Instr where
  | upS1Mk
  | upS1Br
  | upS2Mk
  | upS2Br
  | downS1Mk
  | downS1Br
  | downS2Mk
  | downS2Br
  | leftS1Mk
  | leftS1Br
  | leftS2Mk
  | leftS2Br
  | rightS1Mk
  | rightS1Br
  | rightS2Mk
  | rightS2Br
  | xlatS1Mk (k : KeyCode)
  | xlatS1Br (k : KeyCode)
  | xlatS2Mk (k : KeyCode)
  | xlatS2Br (k : KeyCode)
  | getKey (code : Byte)
  | isBreak (code : Byte)
  | isMake (code : Byte)
  | st2s1 (i : KeyCode)
  | s12s2 (i : KeyCode)
deriving DecidableEq, Repr

end Sys2Proof
end

