-- ==== Sys2Proof/WellFormed.lean ====
section
/-! DEFINITION. Which terms of `Instr` are operations of the block. -/

namespace Sys2Proof

/-- The KeyCode is one of the four a general operation does not take (R83: "not in" Up, Down, Left, Right). -/
def KeyCode.isArrow (k : KeyCode) : Bool :=
  k = 0x48#7 || k = 0x50#7 || k = 0x4B#7 || k = 0x4D#7

/-- A general operation's key is not an arrow (R38, R83 to R86). Every other operand has the width of its type and takes
every value (R39, R90, R91). -/
def Instr.wf : Instr → Bool
  | .upS1Mk => true
  | .upS1Br => true
  | .upS2Mk => true
  | .upS2Br => true
  | .downS1Mk => true
  | .downS1Br => true
  | .downS2Mk => true
  | .downS2Br => true
  | .leftS1Mk => true
  | .leftS1Br => true
  | .leftS2Mk => true
  | .leftS2Br => true
  | .rightS1Mk => true
  | .rightS1Br => true
  | .rightS2Mk => true
  | .rightS2Br => true
  | .xlatS1Mk k => !KeyCode.isArrow k
  | .xlatS1Br k => !KeyCode.isArrow k
  | .xlatS2Mk k => !KeyCode.isArrow k
  | .xlatS2Br k => !KeyCode.isArrow k
  | .getKey _ => true
  | .isBreak _ => true
  | .isMake _ => true
  | .st2s1 _ => true
  | .s12s2 _ => true

end Sys2Proof
end

