-- ==== Sys2Proof/Decode.lean ====
section
/-! DEFINITION. Decoding of the operation word and of the tap and table-read formats, the opcode table as data, and the
encoder (R33 to R39). -/

namespace Sys2Proof

/-! ## The operation word (R35) -/

/-- The operation word: the mode flag above the byte (R35). -/
def opWord (useSet1 : Bool) (code : Byte) : OpWord := BitVec.ofBool useSet1 ++ code

/-- Field `s` of the operation word (R35). -/
def opWordSet1 (w : OpWord) : Bool := w.getLsbD 8

/-- Field `b` of the operation word (R35, R33). -/
def opWordBreak (w : OpWord) : Bool := w.getLsbD 7

/-- Field `k` of the operation word (R35, R33). -/
def opWordKey (w : OpWord) : KeyCode := w.extractLsb' 0 7

/-- Up, KeyCode 0x48 (R92 to R95). -/
def decodeUp (set1 brk : Bool) : Instr :=
  match set1, brk with
  | true, false => .upS1Mk
  | true, true => .upS1Br
  | false, false => .upS2Mk
  | false, true => .upS2Br

/-- Down, KeyCode 0x50 (R96 to R99). -/
def decodeDown (set1 brk : Bool) : Instr :=
  match set1, brk with
  | true, false => .downS1Mk
  | true, true => .downS1Br
  | false, false => .downS2Mk
  | false, true => .downS2Br

/-- Left, KeyCode 0x4B (R100 to R103). -/
def decodeLeft (set1 brk : Bool) : Instr :=
  match set1, brk with
  | true, false => .leftS1Mk
  | true, true => .leftS1Br
  | false, false => .leftS2Mk
  | false, true => .leftS2Br

/-- Right, KeyCode 0x4D (R104 to R107). -/
def decodeRight (set1 brk : Bool) : Instr :=
  match set1, brk with
  | true, false => .rightS1Mk
  | true, true => .rightS1Br
  | false, false => .rightS2Mk
  | false, true => .rightS2Br

/-- Every other key (R83 to R86). -/
def decodeGeneral (set1 brk : Bool) (k : KeyCode) : Instr :=
  match set1, brk with
  | true, false => .xlatS1Mk k
  | true, true => .xlatS1Br k
  | false, false => .xlatS2Mk k
  | false, true => .xlatS2Br k

/-- The decoding rule of R38: the arrow operation for (`s`, `b`, `k`) if `k` is an arrow, else the general operation for
(`s`, `b`). Total: no operation word is illegal (R39). -/
def decodeOpWord (w : OpWord) : Instr :=
  let s := opWordSet1 w
  let b := opWordBreak w
  let k := opWordKey w
  if k = 0x48#7 then decodeUp s b
  else if k = 0x50#7 then decodeDown s b
  else if k = 0x4B#7 then decodeLeft s b
  else if k = 0x4D#7 then decodeRight s b
  else decodeGeneral s b k

/-! ## Bytes -/

/-- Why a list of bytes is not a word of a format. DESIGN CHOICE (log 10): the spec's formats are bit fields and know no
bytes; these reasons concern bytes beyond the bits of the format, never a word of it (R39). -/
inductive DecodeError where
  /-- Not one byte (RAW, ROM) or two bytes (OPW). -/
  | wrongLength
  /-- The second byte of an operation word holds more than bit 8 of it. -/
  | notNineBits
  /-- The byte of a table index has bit 7 set: a table has 7 address bits (R91). -/
  | notSevenBits
deriving DecidableEq, Repr

/-- The two bytes of an operation word, bits 7 to 0 first. DESIGN CHOICE (log 10). -/
def opWordBytes (w : OpWord) : List Byte := [w.extractLsb' 0 8, BitVec.setWidth 8 (w.extractLsb' 8 1)]

/-- One byte, of a tap (format RAW). -/
def decodeRaw (make : Byte → Instr) : List Byte → Except DecodeError Instr
  | [c] => .ok (make c)
  | _ => .error .wrongLength

/-- One byte below 0x80, of a table read (format ROM). -/
def decodeRom (make : KeyCode → Instr) : List Byte → Except DecodeError Instr
  | [c] => if c.getLsbD 7 then .error .notSevenBits else .ok (make (c.extractLsb' 0 7))
  | _ => .error .wrongLength

/-- Two bytes, of an operation word (format OPW). -/
def decodeOpw : List Byte → Except DecodeError Instr
  | [code, flag] =>
    if flag.extractLsb' 1 7 = 0#7 then .ok (decodeOpWord (opWord (flag.getLsbD 0) code)) else .error .notNineBits
  | _ => .error .wrongLength

/-- The operation a call with these bytes stands for (R43), or the name of what is wrong with the bytes. -/
def decode (c : Call) (bytes : List Byte) : Except DecodeError Instr :=
  match c with
  | .toPS2 => decodeOpw bytes
  | .getKey => decodeRaw .getKey bytes
  | .isBreak => decodeRaw .isBreak bytes
  | .isMake => decodeRaw .isMake bytes
  | .stToPS2Set1 => decodeRom .st2s1 bytes
  | .ps2Set1ToSet2 => decodeRom .s12s2 bytes

/-- The call whose format has this many table bits (30_encoding.md): up to 7 ROM, 8 RAW, 9 to 16 OPW (nine bits in
whole bytes). DESIGN CHOICE (log 11): the rows of one format without fixed bits share every word, and the first row of
the format is taken. -/
def tableCall (nbits : Nat) : Option Call :=
  if nbits ≤ 7 then some .stToPS2Set1
  else if nbits = 8 then some .getKey
  else if nbits ≤ 16 then some .toPS2
  else none

/-- The bytes of a word of `nbits` table bits, bit 0 of `w` in bit 0 of the first byte. -/
def tableBytes (nbits w : Nat) : List Byte :=
  if nbits ≤ 8 then [BitVec.ofNat 8 w] else [BitVec.ofNat 8 w, BitVec.ofNat 8 (w / 256)]

/-- The instruction the decoder reads from the bits `w` of an opcode-table row of `nbits` bits (the host's fixed name). -/
def decodeTableWord (nbits w : Nat) : Option Instr :=
  match tableCall nbits with
  | none => none
  | some c =>
    if 2 ^ nbits ≤ w then none
    else match decode c (tableBytes nbits w) with
      | .ok i => some i
      | .error _ => none

/-! ## The opcode table as data (R38) -/

/-- A row of R38's table for the 20 translate operations: `match` and `mask` of the operation word, and the operation for
a word of the row. Rows stand in order of priority (R38: "equivalently, the first matching row"). -/
structure OpcodeRow where
  bits : OpWord
  mask : OpWord
  make : KeyCode → Instr

/-- The word matches the row (R38). -/
def OpcodeRow.covers (r : OpcodeRow) (w : OpWord) : Bool := (w &&& r.mask) = r.bits

/-- The eight vertical arrow rows, priority 1 (R92 to R99). -/
def opcodeRowsVertical : List OpcodeRow :=
  [⟨0x148, 0x1FF, fun _ => .upS1Mk⟩, ⟨0x1C8, 0x1FF, fun _ => .upS1Br⟩,
   ⟨0x048, 0x1FF, fun _ => .upS2Mk⟩, ⟨0x0C8, 0x1FF, fun _ => .upS2Br⟩,
   ⟨0x150, 0x1FF, fun _ => .downS1Mk⟩, ⟨0x1D0, 0x1FF, fun _ => .downS1Br⟩,
   ⟨0x050, 0x1FF, fun _ => .downS2Mk⟩, ⟨0x0D0, 0x1FF, fun _ => .downS2Br⟩]

/-- The eight horizontal arrow rows, priority 1 (R100 to R107). -/
def opcodeRowsHorizontal : List OpcodeRow :=
  [⟨0x14B, 0x1FF, fun _ => .leftS1Mk⟩, ⟨0x1CB, 0x1FF, fun _ => .leftS1Br⟩,
   ⟨0x04B, 0x1FF, fun _ => .leftS2Mk⟩, ⟨0x0CB, 0x1FF, fun _ => .leftS2Br⟩,
   ⟨0x14D, 0x1FF, fun _ => .rightS1Mk⟩, ⟨0x1CD, 0x1FF, fun _ => .rightS1Br⟩,
   ⟨0x04D, 0x1FF, fun _ => .rightS2Mk⟩, ⟨0x0CD, 0x1FF, fun _ => .rightS2Br⟩]

/-- The four general rows, priority 0 (R83 to R86). -/
def opcodeRowsGeneral : List OpcodeRow :=
  [⟨0x100, 0x180, .xlatS1Mk⟩, ⟨0x180, 0x180, .xlatS1Br⟩, ⟨0x000, 0x180, .xlatS2Mk⟩, ⟨0x080, 0x180, .xlatS2Br⟩]

/-- R38's table, arrow rows first. -/
def opcodeRows : List OpcodeRow := opcodeRowsVertical ++ opcodeRowsHorizontal ++ opcodeRowsGeneral

/-- The operation of the first row that covers the word (R38). -/
def firstMatch (w : OpWord) : Option Instr := (opcodeRows.find? (·.covers w)).map (·.make (opWordKey w))

/-! ## The encoder -/

/-- The call and the bytes of an operation, from R38's patterns. For a general operation with an arrow key, which is no
operation (`Instr.wf`), these are an arrow operation's bytes. -/
def encode : Instr → Call × List Byte
  | .upS1Mk => (.toPS2, opWordBytes 0b101001000#9)
  | .upS1Br => (.toPS2, opWordBytes 0b111001000#9)
  | .upS2Mk => (.toPS2, opWordBytes 0b001001000#9)
  | .upS2Br => (.toPS2, opWordBytes 0b011001000#9)
  | .downS1Mk => (.toPS2, opWordBytes 0b101010000#9)
  | .downS1Br => (.toPS2, opWordBytes 0b111010000#9)
  | .downS2Mk => (.toPS2, opWordBytes 0b001010000#9)
  | .downS2Br => (.toPS2, opWordBytes 0b011010000#9)
  | .leftS1Mk => (.toPS2, opWordBytes 0b101001011#9)
  | .leftS1Br => (.toPS2, opWordBytes 0b111001011#9)
  | .leftS2Mk => (.toPS2, opWordBytes 0b001001011#9)
  | .leftS2Br => (.toPS2, opWordBytes 0b011001011#9)
  | .rightS1Mk => (.toPS2, opWordBytes 0b101001101#9)
  | .rightS1Br => (.toPS2, opWordBytes 0b111001101#9)
  | .rightS2Mk => (.toPS2, opWordBytes 0b001001101#9)
  | .rightS2Br => (.toPS2, opWordBytes 0b011001101#9)
  | .xlatS1Mk k => (.toPS2, opWordBytes (0b10#2 ++ k))
  | .xlatS1Br k => (.toPS2, opWordBytes (0b11#2 ++ k))
  | .xlatS2Mk k => (.toPS2, opWordBytes (0b00#2 ++ k))
  | .xlatS2Br k => (.toPS2, opWordBytes (0b01#2 ++ k))
  | .getKey code => (.getKey, [code])
  | .isBreak code => (.isBreak, [code])
  | .isMake code => (.isMake, [code])
  | .st2s1 i => (.stToPS2Set1, [0#1 ++ i])
  | .s12s2 i => (.ps2Set1ToSet2, [0#1 ++ i])

end Sys2Proof
end

