-- ==== Sys2Proof/Machine/Operands.lean ====
section
/-! DEFINITION. Operand forms: the KeyCode in a byte, and what the host presents as the bytes and the operation of the
next evaluation. -/

namespace Sys2Proof.Machine

/-- `getKey` as a byte: the key mask 0x7F (R36, R45). -/
def getKeyByte (code : Byte) : Byte := code &&& 0x7F

/-- The KeyCode field of a byte (R33, R37). -/
def keyOf (code : Byte) : KeyCode := code.extractLsb' 0 7

/-- The host presents a pair (R8, R18): the next evaluation translates it. -/
def State.present (s : State) (code : Byte) (useSet1 : Bool) : State :=
  { s with call := .toPS2, code := code, useSet1 := useSet1 }

/-- The bytes the next evaluation runs: the operation word's for a translation, the byte for a tap, the 7-bit index for a
table read. DESIGN CHOICE (logs 10, 16). -/
def State.fetchBytes (s : State) : List Byte :=
  match s.call with
  | .toPS2 => opWordBytes (opWord s.useSet1 s.code)
  | .getKey => [s.code]
  | .isBreak => [s.code]
  | .isMake => [s.code]
  | .stToPS2Set1 => [getKeyByte s.code]
  | .ps2Set1ToSet2 => [getKeyByte s.code]

/-- The operation the next evaluation runs. Total, since every input pair is an operation (R39). -/
def State.operation (s : State) : Instr :=
  match s.call with
  | .toPS2 => decodeOpWord (opWord s.useSet1 s.code)
  | .getKey => .getKey s.code
  | .isBreak => .isBreak s.code
  | .isMake => .isMake s.code
  | .stToPS2Set1 => .st2s1 (keyOf s.code)
  | .ps2Set1ToSet2 => .s12s2 (keyOf s.code)

/-- The state in which the host presents the word `w` of an opcode-table row of `nbits` bits. -/
def State.presentTableWord (s : State) (nbits w : Nat) : State :=
  match tableCall nbits with
  | none => s
  | some c => { s with call := c, code := BitVec.ofNat 8 w, useSet1 := (w / 256) % 2 == 1 }

end Sys2Proof.Machine
end

