-- ==== Sys2Proof/Machine/Taps.lean ====
section
/-! DEFINITION. The helper taps (45_operations.md section 2). A tap depends on its byte alone (R49). -/

namespace Sys2Proof.Machine

/-- `GETKEY` (R87): the byte with bit 7 clear. -/
def execGetKey (code : Byte) (s : State) : Host.Outcome State Fault Refusal :=
  .next (s.withResult (.key (getKeyByte code)))

/-- `ISBREAK` (R88). -/
def execIsBreak (code : Byte) (s : State) : Host.Outcome State Fault Refusal :=
  .next (s.withResult (.isBreak (isBreakFlag code)))

/-- `ISMAKE` (R89). -/
def execIsMake (code : Byte) (s : State) : Host.Outcome State Fault Refusal :=
  .next (s.withResult (.isMake (isMakeFlag code)))

end Sys2Proof.Machine
end

