-- ==== Sys2Proof/Machine/Translate.lean ====
section
/-! DEFINITION. The four general translate operations (45_operations.md section 1). With an arrow key the term is no
operation (`Instr.wf`) and is never decoded; DESIGN CHOICE (log 12): its meaning is then the rule's pseudocode as it
stands. -/

namespace Sys2Proof.Machine

/-- `XLAT.S1.MK k` (R83). -/
def execXlatS1Mk (k : KeyCode) (s : State) : Host.Outcome State Fault Refusal :=
  .next (s.translate true false k none)

/-- `XLAT.S1.BR k` (R84). -/
def execXlatS1Br (k : KeyCode) (s : State) : Host.Outcome State Fault Refusal :=
  .next (s.translate true true k none)

/-- `XLAT.S2.MK k` (R85). -/
def execXlatS2Mk (k : KeyCode) (s : State) : Host.Outcome State Fault Refusal :=
  .next (s.translate false false k none)

/-- `XLAT.S2.BR k` (R86). -/
def execXlatS2Br (k : KeyCode) (s : State) : Host.Outcome State Fault Refusal :=
  .next (s.translate false true k none)

end Sys2Proof.Machine
end

