-- ==== Sys2Proof/Machine/Dispatch.lean ====
section
/-! DEFINITION. One arm per operation: the meaning it calls. -/

namespace Sys2Proof.Machine

def exec (i : Instr) (s : State) : Host.Outcome State Fault Refusal :=
  match i with
  | .upS1Mk => Sys2Proof.Machine.execUpS1Mk s
  | .upS1Br => Sys2Proof.Machine.execUpS1Br s
  | .upS2Mk => Sys2Proof.Machine.execUpS2Mk s
  | .upS2Br => Sys2Proof.Machine.execUpS2Br s
  | .downS1Mk => Sys2Proof.Machine.execDownS1Mk s
  | .downS1Br => Sys2Proof.Machine.execDownS1Br s
  | .downS2Mk => Sys2Proof.Machine.execDownS2Mk s
  | .downS2Br => Sys2Proof.Machine.execDownS2Br s
  | .leftS1Mk => Sys2Proof.Machine.execLeftS1Mk s
  | .leftS1Br => Sys2Proof.Machine.execLeftS1Br s
  | .leftS2Mk => Sys2Proof.Machine.execLeftS2Mk s
  | .leftS2Br => Sys2Proof.Machine.execLeftS2Br s
  | .rightS1Mk => Sys2Proof.Machine.execRightS1Mk s
  | .rightS1Br => Sys2Proof.Machine.execRightS1Br s
  | .rightS2Mk => Sys2Proof.Machine.execRightS2Mk s
  | .rightS2Br => Sys2Proof.Machine.execRightS2Br s
  | .xlatS1Mk k => Sys2Proof.Machine.execXlatS1Mk k s
  | .xlatS1Br k => Sys2Proof.Machine.execXlatS1Br k s
  | .xlatS2Mk k => Sys2Proof.Machine.execXlatS2Mk k s
  | .xlatS2Br k => Sys2Proof.Machine.execXlatS2Br k s
  | .getKey code => Sys2Proof.Machine.execGetKey code s
  | .isBreak code => Sys2Proof.Machine.execIsBreak code s
  | .isMake code => Sys2Proof.Machine.execIsMake code s
  | .st2s1 idx => Sys2Proof.Machine.execSt2s1 idx s
  | .s12s2 idx => Sys2Proof.Machine.execS12s2 idx s

end Sys2Proof.Machine
end

