-- ==== Sys2Proof/Machine/Step.lean ====
section
/-! DEFINITION. One step of the model: one evaluation of what the host presents (R8). -/

namespace Sys2Proof.Machine

/-- One evaluation: the operation that the presented inputs select, run once. The inputs stay as the host drives them
(R18), so a further step evaluates them again. DESIGN CHOICE (log 1): an evaluation is one atomic step (R130, D8). -/
def step (s : State) : Host.Outcome State Fault Refusal := exec s.operation s

/-- The state in which the host presents the word of an opcode-table row, so that the next step runs it (log 13). -/
def State.withFetchWord (s : State) (nbits w : Nat) : State := s.presentTableWord nbits w

end Sys2Proof.Machine
end

