-- ==== Sys2Proof/Machine/Complete.lean ====
section
/-! DEFINITION. The complete function `toPS2`, as the pseudocode of R75 gives it in one piece. No operation calls it: the
operations are written from their own rules, and the statements say that a step agrees with it. -/

namespace Sys2Proof.Machine

/-- R75's accumulation: from zero (R74), the payload, then the prefixes by OR at bit offsets 8 and 16. -/
def packOr (payload : Byte) (isExt isBreak : Bool) : Packed :=
  let res0 : Packed := 0x000000
  let res1 := res0 ||| payload.setWidth 24
  let res2 := if isBreak then res1 ||| (breakPrefix.setWidth 24 <<< 8) else res1
  let res3 := if isExt && !isBreak then res2 ||| (extendedPrefix.setWidth 24 <<< 8) else res2
  if isExt && isBreak then res3 ||| (extendedPrefix.setWidth 24 <<< 16) else res3

/-- `len = 1 + is_break + is_ext` (R77). -/
def lengthOf (isExt isBreak : Bool) : BitVec 2 :=
  1 + (BitVec.ofBool isBreak).setWidth 2 + (BitVec.ofBool isExt).setWidth 2

/-- R75's `arrow`, used only for an arrow key (R64). -/
def arrowCode (useSet1 : Bool) (key : KeyCode) : Byte :=
  if useSet1 then 0#1 ++ key
  else if key == 0x48 then 0x75 else if key == 0x50 then 0x72 else if key == 0x4B then 0x6B else 0x74

/-- The output ports from the payload and the two flags: `res` by accumulation, `len` of R77, the slots cut out of `res`
as R78 says. -/
def accumulatedPorts (key : KeyCode) (isExt isBreak : Bool) (payload : Byte) : Ports :=
  let res := packOr payload isExt isBreak
  let len := lengthOf isExt isBreak
  let b0 := res.extractLsb' 0 8
  let b1 := res.extractLsb' 8 8
  let b2 := res.extractLsb' 16 8
  { res := res, len := len,
    seq0 := if len = 3 then b2 else if len = 2 then b1 else b0,
    seq1 := if len = 3 then b1 else if len = 2 then b0 else 0x00,
    seq2 := if len = 3 then b0 else 0x00,
    key := key, isBreak := isBreak, isMake := !isBreak }

/-- R75, with `len` of R77 and the slots of R78. -/
def toPS2 (T1 T2 : KeyCode → Byte) (code : Byte) (useSet1 : Bool) : Wires × Ports :=
  let key : KeyCode := code.extractLsb' 0 7
  let isBreak := code.getLsbD 7
  let t1 := T1 key
  let t2 := T2 (t1.extractLsb' 0 7)
  let base := if useSet1 then t1 else t2
  let isExt := isExtFlag key
  let arrow := arrowCode useSet1 key
  let payload := if isExt then arrow else base
  ({ t1 := t1, t2 := t2, base := base, isExt := isExt, arrow := if isExt then some arrow else none, payload := payload },
   accumulatedPorts key isExt isBreak payload)

/-- What a caller that has only `res` reads as the length (R79): a prefix byte is never zero. -/
def recoveredLen (res : Packed) : BitVec 2 :=
  if res.extractLsb' 16 8 ≠ 0x00#8 then 3 else if res.extractLsb' 8 8 ≠ 0x00#8 then 2 else 1

/-- The packed number of a byte list, first byte topmost (R79). -/
def packBytes (bytes : List Byte) : Packed := bytes.foldl (fun acc b => acc <<< 8 ||| b.setWidth 24) 0x000000

/-- `toPS2` with the tables of a state. -/
def State.toPS2 (s : State) (code : Byte) (useSet1 : Bool) : Wires × Ports :=
  Machine.toPS2 s.tableT1 s.tableT2 code useSet1

end Sys2Proof.Machine
end

