-- ==== Sys2Proof/Machine/Session.lean ====
section
/-! DEFINITION. A list of input pairs presented one after another, and the bytes a caller that forwards every sequence
gets (R11, D11). DESIGN CHOICE (log 19): a harness around the block, no part of it. -/

namespace Sys2Proof.Machine

/-- The output sequence of the last translation; nothing if there was none. -/
def State.sequence (s : State) : List Byte :=
  match s.result with
  | .translated _ o => o.seq
  | .idle => []
  | .key _ => []
  | .isBreak _ => []
  | .isMake _ => []
  | .set1Code _ => []
  | .set2Code _ => []

/-- Present each pair, evaluate it, and concatenate the sequences (D11). -/
def runInputs (s : State) : List (Byte × Bool) → Host.Outcome (State × List Byte) Fault Refusal
  | [] => .next (s, [])
  | (code, useSet1) :: rest =>
    match step (s.present code useSet1) with
    | .next t =>
      match runInputs t rest with
      | .next (u, out) => .next (u, t.sequence ++ out)
      | .fault r => .fault r
      | .refused r => .refused r
    | .fault r => .fault r
    | .refused r => .refused r

end Sys2Proof.Machine
end

