-- ==== Sys2Proof/Safety.lean ====
section
/-! DEFINITION. What a safe evaluation is, the conditions on the tables, and the invariant, in the terms the statements
use. -/

namespace Sys2Proof.Machine

/-! ## Conditions on the tables (41_rom_tables.md section 2), each a hypothesis of its own (U6) -/

/-- R53: the two entries of T1 that the source's scenarios fix. -/
def FixedEntries (T1 : KeyCode → Byte) : Prop := T1 0x1E = 0x1E ∧ T1 0x00 = 0x00

/-- R54: T1 is zero from 0x45 to 0x64. -/
def ZeroRange (T1 : KeyCode → Byte) : Prop := ∀ k : KeyCode, 0x45 ≤ k.toNat → k.toNat ≤ 0x64 → T1 k = 0x00

/-- R56: T2 is zero at index 0. -/
def ZeroAtZero (T2 : KeyCode → Byte) : Prop := T2 0x00 = 0x00

/-- R57: every entry of T1 has bit 7 clear. -/
def SevenBit (T1 : KeyCode → Byte) : Prop := ∀ k : KeyCode, (T1 k).getLsbD 7 = false

/-- The tables meet every condition the spec puts on its parameters (R5, R52). -/
structure Admissible (T1 T2 : KeyCode → Byte) : Prop where
  fixedEntries : FixedEntries T1
  zeroRange : ZeroRange T1
  zeroAtZero : ZeroAtZero T2
  sevenBit : SevenBit T1

/-! ## Evaluations -/

/-- The step answers a next state: neither a fault nor a refusal (R81, R110). -/
def Answers (s : State) : Prop := ∃ t, step s = .next t

/-- Presenting the pair and stepping answers these signals and changes nothing but the answer. -/
def Evaluates (s : State) (code : Byte) (useSet1 : Bool) (w : Wires) (o : Ports) : Prop :=
  step (s.present code useSet1) = .next ((s.present code useSet1).withResult (.translated w o))

/-! ## The invariant -/

/-- The ports of a translation fit together: bits 23 to 8 by the layouts of R40, `len` by R77, the first `len` slots the low
bytes of `res` in sending order (R78, R79), `is_make` the negation of `is_break` (R47). -/
structure Ports.Lawful (o : Ports) : Prop where
  top : o.res.extractLsb' 16 8 = if isExtFlag o.key && o.isBreak then 0xE0#8 else 0x00#8
  middle : o.res.extractLsb' 8 8 = if o.isBreak then 0xF0#8 else if isExtFlag o.key then 0xE0#8 else 0x00#8
  length : o.len = lengthOf (isExtFlag o.key) o.isBreak
  packed : packBytes o.seq = o.res
  makeFlag : o.isMake = !o.isBreak

/-- The wires of a translation fit its ports and the tables (R50, R59, R60, R63, R65). -/
structure Wires.Lawful (w : Wires) (o : Ports) (T1 T2 : KeyCode → Byte) : Prop where
  portA : w.t1 = T1 o.key
  portB : w.t2 = T2 (w.t1.extractLsb' 0 7)
  mux : w.base = w.t1 ∨ w.base = w.t2
  extended : w.isExt = isExtFlag o.key
  override : w.payload = w.arrow.getD w.base ∧ w.arrow.isSome = w.isExt
  lowest : o.res.extractLsb' 0 8 = w.payload

/-- What an answer of the block always satisfies, for these tables. -/
def Result.Lawful (r : Result) (T1 T2 : KeyCode → Byte) : Prop :=
  match r with
  | .idle => True
  | .translated w o => w.Lawful o T1 T2 ∧ o.Lawful
  | .key b => b.getLsbD 7 = false
  | .isBreak _ => True
  | .isMake _ => True
  | .set1Code b => ∃ i, b = T1 i
  | .set2Code b => ∃ i, b = T2 i

/-- The invariant: both tables in canonical form and admissible, and the last answer lawful. -/
structure State.Inv (s : State) : Prop where
  t1Form : Memory.wf .t1 s.t1Cells
  t2Form : Memory.wf .t2 s.t2Cells
  tables : Admissible s.tableT1 s.tableT2
  answer : s.result.Lawful s.tableT1 s.tableT2

end Sys2Proof.Machine
end

