-- ==== Sys2Proof/Certificates/Slice0/Obligations.lean ====
section
/-! DEFINITION. The statements for the provers. -/

open Sys2Proof Sys2Proof.Machine

/-- Words written out from the spec decode to their operations (30_encoding.md section 3, 95_test_vectors.md sections 2.6 and 2.7, log 3, log 10). The call beside the bytes (log 3) and the order of the two bytes of a word (log 10) are the model's choices. -/
def Obligations.SpecWordsDecode : Prop :=
  decode .toPS2 (opWordBytes 0b101001000#9) = .ok .upS1Mk ∧
  decode .toPS2 (opWordBytes 0b011001000#9) = .ok .upS2Br ∧
  decode .toPS2 (opWordBytes 0b011010000#9) = .ok .downS2Br ∧
  decode .toPS2 (opWordBytes 0b111001011#9) = .ok .leftS1Br ∧
  decode .toPS2 (opWordBytes 0b101001101#9) = .ok .rightS1Mk ∧
  decode .toPS2 (opWordBytes 0b100011110#9) = .ok (.xlatS1Mk 0x1E) ∧
  decode .toPS2 (opWordBytes 0b110011110#9) = .ok (.xlatS1Br 0x1E) ∧
  decode .toPS2 (opWordBytes 0b001000001#9) = .ok (.xlatS2Mk 0x41) ∧
  decode .toPS2 (opWordBytes 0b011111111#9) = .ok (.xlatS2Br 0x7F) ∧
  decode .getKey [0xC8] = .ok (.getKey 0xC8) ∧
  decode .isBreak [0x9E] = .ok (.isBreak 0x9E) ∧
  decode .isMake [0x80] = .ok (.isMake 0x80) ∧
  decode .stToPS2Set1 [0x1E] = .ok (.st2s1 0x1E) ∧
  decode .ps2Set1ToSet2 [0x7F] = .ok (.s12s2 0x7F)

/-- Decoding an encoded operation gives it back, for every well-formed operation of the table (30_encoding.md sections 1 and 3, log 3, log 10). The words are the spec's; that a call and a list of bytes stand for an operation is the model's choice (logs 3 and 10). -/
def Obligations.DecodeOfEncodeIsIdentity : Prop :=
  ∀ i : Instr, i.wf = true → decode (encode i).1 (encode i).2 = .ok i

/-- Every decoded call and bytes are the encoding of the one well-formed operation they decode to (30_encoding.md sections 1 and 3, log 3, log 10). The words are the spec's; that a call and a list of bytes stand for an operation is the model's choice (logs 3 and 10). -/
def Obligations.EncodeOfDecodeIsIdentity : Prop :=
  ∀ (c : Call) (bytes : List Byte) (i : Instr), decode c bytes = .ok i → i.wf = true ∧ encode i = (c, bytes)

/-- The 20 translate operations cover every operation word, each exactly once (30_encoding.md section 3, 30_encoding.md section 4, log 3, log 10). The call toPS2 and the two bytes of a word are the model's choices (logs 3 and 10). -/
def Obligations.EveryOperationWordIsExactlyOneOperation : Prop :=
  ∀ w : OpWord, ∃ i : Instr, (i.wf = true ∧ encode i = (.toPS2, opWordBytes w)) ∧
    ∀ j : Instr, j.wf = true → encode j = (.toPS2, opWordBytes w) → j = i

/-- The decoder gives the operation of the first row of the opcode table that matches (30_encoding.md section 3). -/
def Obligations.DecoderFollowsTheOpcodeTable : Prop :=
  ∀ w : OpWord, firstMatch w = some (decodeOpWord w)

/-- Every byte with either mode flag is an operation and is evaluated; an unmapped key yields payload 0x00 (30_encoding.md (R39), 41_rom_tables.md (R56, R62), log 3, log 10). That the pair stands as two bytes beside the call toPS2 is the model's choice (logs 3 and 10). -/
def Obligations.NoInputPairIsIllegal : Prop :=
  ∀ (s : State) (code : Byte) (f : Bool),
    (∃ i : Instr, i.wf = true ∧ decode .toPS2 (s.present code f).fetchBytes = .ok i) ∧
    ∃ w o, Evaluates s code f w o ∧
      (isExtFlag (keyOf code) = false → s.tableT1 (keyOf code) = 0x00 → ZeroAtZero s.tableT2 → w.payload = 0x00)

/-- A step runs the operation that the presented bytes decode to (00_scope.md section 6 (R8), 30_encoding.md section 3, log 1, log 3, log 10, log 16). That the inputs stand between steps (log 1), that a call selects the function (log 3), the bytes of a call (log 10), and the index of a table read at bits 6:0 of the byte (log 16) are the model's choices. -/
def Obligations.StepRunsTheDecodedOperation : Prop :=
  ∀ s : State, (∃ i : Instr, i.wf = true ∧ decode s.call s.fetchBytes = .ok i) ∧
    ∀ i : Instr, decode s.call s.fetchBytes = .ok i → step s = exec i s

/-- A word of the opcode table placed for the next step is the one that runs (30_encoding.md section 3, log 3, log 10, log 11, log 13). Taking GETKEY and ST2S1 among rows that share every word (log 11), the call and the bytes (logs 3 and 10), and how a word is placed for the next step (log 13) are the model's choices. -/
def Obligations.TableWordsRunAsDecoded : Prop :=
  (∀ (s : State) (w : Nat), w < 2 ^ 9 →
    decodeTableWord 16 w = some (decodeOpWord (BitVec.ofNat 9 w)) ∧
    step (s.withFetchWord 16 w) = exec (decodeOpWord (BitVec.ofNat 9 w)) (s.withFetchWord 16 w)) ∧
  (∀ (s : State) (w : Nat), w < 2 ^ 8 →
    decodeTableWord 8 w = some (.getKey (BitVec.ofNat 8 w)) ∧
    step (s.withFetchWord 8 w) = exec (.getKey (BitVec.ofNat 8 w)) (s.withFetchWord 8 w)) ∧
  (∀ (s : State) (w : Nat), w < 2 ^ 7 →
    decodeTableWord 7 w = some (.st2s1 (BitVec.ofNat 7 w)) ∧
    step (s.withFetchWord 7 w) = exec (.st2s1 (BitVec.ofNat 7 w)) (s.withFetchWord 7 w))

/-- No operation and no step raises an exception (60_exceptions.md (R110), log 3, log 12, log 21). It ranges over every term of Instr: that a general operation with an arrow key, which is no operation (R83), answers too is the model's choice (log 12), and so is that a table read and a tap are operations a step can evaluate (logs 3 and 21). -/
def Obligations.NoOperationFaultsOrIsRefused : Prop :=
  (∀ (i : Instr) (s : State), ∃ t, exec i s = .next t) ∧ ∀ s : State, Answers s

/-- A run of any length goes on, and no run changes a table or an input (10_state.md (R9, R18), 20_memory.md (R24, R32), 60_exceptions.md (R110), log 1, log 3, log 4). That the inputs stay as they are from one step to the next (log 1), the call that stands beside them (log 3), and the tables as lists of cells in State (log 4) are the model's choices. -/
def Obligations.RunsNeverStopAndKeepTheTables : Prop :=
  ∀ (n : Nat) (s : State), ∃ t : State, Host.Core.run core n s = .next t ∧
    t.t1Cells = s.t1Cells ∧ t.t2Cells = s.t2Cells ∧ (∀ (sp : Space) (i : KeyCode), t.memRead sp i = s.memRead sp i) ∧
    t.call = s.call ∧ t.code = s.code ∧ t.useSet1 = s.useSet1

/-- Frame: no operation changes a table, an input or the call; a next state differs in the answer alone (10_state.md section 1, 20_memory.md section 1, 45_operations.md introduction, log 1, log 2, log 3, log 4, log 12). The answer field (log 2), the call (log 3), inputs that stand (log 1), the tables as lists of cells (log 4) and the meaning of a general operation with an arrow key (log 12) are the model's choices. -/
def Obligations.OperationsChangeTheAnswerAlone : Prop :=
  ∀ (i : Instr) (s t : State), exec i s = .next t →
    t.t1Cells = s.t1Cells ∧ t.t2Cells = s.t2Cells ∧ (∀ (sp : Space) (a : KeyCode), t.memRead sp a = s.memRead sp a) ∧
    t.call = s.call ∧ t.code = s.code ∧ t.useSet1 = s.useSet1 ∧ t = s.withResult t.result

/-- Every evaluation is the complete function toPS2, in its pseudocode and in its closed form (44_output_sequencer.md: R75, R77, R78; 92_eei_decisions.md D7). The slots beyond `len` read 0 (log 9), and `arrow` absent for a key that is no arrow is the model's choice (log 14). -/
def Obligations.StepIsTheCompleteFunction : Prop :=
  ∀ (s : State) (code : Byte) (f : Bool),
    let r := s.toPS2 code f
    Evaluates s code f r.1 r.2 ∧
    r.2.res.extractLsb' 0 8 = r.1.payload ∧
    r.2.res.extractLsb' 8 8 = (if code.getLsbD 7 then 0xF0#8 else if isExtFlag (keyOf code) then 0xE0#8 else 0x00#8) ∧
    r.2.res.extractLsb' 16 8 = (if isExtFlag (keyOf code) && code.getLsbD 7 then 0xE0#8 else 0x00#8)

/-- Two evaluations with the same inputs and tables give the same answer, whatever happened before (00_scope.md section 1 (R2), log 2, log 3, log 4, log 21). The call (log 3), the answer field (log 2), the lists of cells (log 4) and a table read as an operation (log 21) are the model's choices. -/
def Obligations.EvaluationsDependOnInputsAndTablesOnly : Prop :=
  ∀ s s' : State, s.call = s'.call → s.code = s'.code → s.useSet1 = s'.useSet1 →
    (∀ (sp : Space) (i : KeyCode), s.memRead sp i = s'.memRead sp i) →
    ∃ r : Result, step s = .next (s.withResult r) ∧ step s' = .next (s'.withResult r)

/-- While the inputs stand, evaluating again gives the same state (00_scope.md section 1 (R2), 10_state.md (R9, R18), log 1, log 2, log 3). That the inputs and the call stay as they are from one step to the next (logs 1 and 3) and that a step replaces the answer field whole (log 2) are the model's choices. -/
def Obligations.RepeatedEvaluationGivesTheSame : Prop :=
  ∀ s t : State, step s = .next t → step t = .next t

/-- Every step keeps: canonical admissible tables, and a lawful answer (20_memory.md section 1, 41_rom_tables.md sections 1 to 3, 42_extended_key.md, 44_output_sequencer.md, log 2, log 4, log 14, log 21). The list form (log 4), the answer field (log 2), the wire arrow absent for a key that is no arrow (log 14) and the answers of table reads (log 21) are the model's choices. -/
def Obligations.StepKeepsTheInvariant : Prop :=
  ∀ s t : State, s.Inv → step s = .next t → t.Inv

/-- The state at power-up meets the invariant (41_rom_tables.md section 2, 70_reset_and_hazards.md section 1, log 2, log 4, log 5, log 6). It holds by the model's choices: the pinned entries of R53, R54 and R56 (log 6), the open entries of T1 with bit 7 cleared (log 5), the list form (log 4), and an answer field that is idle at power-up (log 2). -/
def Obligations.PowerUpMeetsTheInvariant : Prop :=
  State.reset.Inv

/-- At power-up the tables hold the entries the spec fixes (41_rom_tables.md section 2, log 5, log 6). It holds by the model's choices: the pinned entries of R53, R54 and R56 (log 6) and the open entries of T1 with bit 7 cleared (log 5). -/
def Obligations.TableEntriesAtPowerUp : Prop :=
  State.reset.tableT1 0x1E = 0x1E ∧ State.reset.tableT1 0x00 = 0x00 ∧
  (∀ k : KeyCode, 0x45 ≤ k.toNat → k.toNat ≤ 0x64 → State.reset.tableT1 k = 0x00) ∧
  (∀ k : KeyCode, (State.reset.tableT1 k).getLsbD 7 = false) ∧
  State.reset.tableT2 0x00 = 0x00

/-- After any inputs the block answers as it did at power-up (70_reset_and_hazards.md section 1 (R122), log 2, log 19). The list of pairs presented one after another is a harness (log 19) and the answer field the model's own (log 2). -/
def Obligations.FirstEvaluationIsLikeEveryOther : Prop :=
  ∀ (l : List (Byte × Bool)) (u : State) (out : List Byte), runInputs State.reset l = .next (u, out) →
    ∀ (code : Byte) (f : Bool), ∃ w o, Evaluates State.reset code f w o ∧ Evaluates u code f w o

/-- The conditions on the tables can be met together (41_rom_tables.md section 2, 49_reference_tables.md, 95_test_vectors.md section 5; the reference tables are from general knowledge, log 18). That the pair at power-up meets them is the model's choice: the pinned entries of log 6 and the cleared bit 7 of log 5. -/
def Obligations.ReferenceTablesAreAdmissible : Prop :=
  Admissible refT1 refT2 ∧ Admissible State.reset.tableT1 State.reset.tableT2

/-- GETKEY answers the byte with bit 7 clear (R45, R87). -/
def Obligations.GetKeyAnswersTheKeyCode : Prop :=
  ∀ (s : State) (code : Byte),
    exec (.getKey code) s = .next (s.withResult (.key (code &&& 0x7F))) ∧
    code &&& 0x7F#8 = 0#1 ++ code.extractLsb' 0 7 ∧ (code &&& 0x7F#8).getLsbD 7 = false ∧
    exec (.getKey (code ||| 0x80)) s = exec (.getKey code) s

/-- ISBREAK answers bit 7 of the byte (R46, R88). -/
def Obligations.IsBreakAnswersBitSeven : Prop :=
  ∀ (s : State) (code : Byte),
    exec (.isBreak code) s = .next (s.withResult (.isBreak (code.getLsbD 7))) ∧
    code.getLsbD 7 = decide (code &&& 0x80#8 ≠ 0#8)

/-- ISMAKE answers the negation of bit 7, the opposite of ISBREAK (R47, R89). -/
def Obligations.IsMakeAnswersTheOpposite : Prop :=
  ∀ (s : State) (code : Byte),
    exec (.isMake code) s = .next (s.withResult (.isMake (!code.getLsbD 7))) ∧
    ∃ b : Bool, exec (.isBreak code) s = .next (s.withResult (.isBreak b)) ∧
      exec (.isMake code) s = .next (s.withResult (.isMake (!b)))

/-- The break flag and the KeyCode are the whole byte, and extraction is idempotent (40_key_extractor.md (R48)). -/
def Obligations.ByteIsItsFlagAndKey : Prop :=
  ∀ code : Byte,
    (BitVec.ofBool (isBreakFlag code) ++ keyOf code : Byte) = code ∧ isBreakFlag code = !isMakeFlag code ∧
    getKeyByte code = getKeyByte (code ||| 0x80) ∧ getKeyByte (getKeyByte code) = getKeyByte code ∧
    isBreakFlag (getKeyByte code) = false

/-- The taps depend on the byte alone (40_key_extractor.md (R49)). -/
def Obligations.TapsIgnoreSetAndTables : Prop :=
  ∀ (s s' : State) (code : Byte) (i : Instr), (i = .getKey code ∨ i = .isBreak code ∨ i = .isMake code) →
    ∃ r : Result, exec i s = .next (s.withResult r) ∧ exec i s' = .next (s'.withResult r)

/-- ST2S1 answers the T1 entry at the index (R50, R90). -/
def Obligations.St2s1AnswersTheT1Entry : Prop :=
  ∀ (s : State) (i : KeyCode), exec (.st2s1 i) s = .next (s.withResult (.set1Code (s.memRead .t1 i))) ∧
    (FixedEntries s.tableT1 → (i = 0x00 → s.memRead .t1 i = 0x00) ∧ (i = 0x1E → s.memRead .t1 i = 0x1E)) ∧
    (ZeroRange s.tableT1 → 0x45 ≤ i.toNat → i.toNat ≤ 0x64 → s.memRead .t1 i = 0x00) ∧
    ∀ (code : Byte) (f : Bool), ∃ w o, Evaluates s code f w o ∧ w.t1 = s.memRead .t1 (keyOf code)

/-- S12S2 answers the T2 entry at the index (41_rom_tables.md: R51, R56; 45_operations.md: R91). That the decoder rejects a byte of 0x80 or more by name is the model's choice (log 10); a step masks bit 7 instead (log 16). -/
def Obligations.S12s2AnswersTheT2Entry : Prop :=
  ∀ (s : State) (i : KeyCode), exec (.s12s2 i) s = .next (s.withResult (.set2Code (s.memRead .t2 i))) ∧
    (ZeroAtZero s.tableT2 → i = 0x00 → s.memRead .t2 i = 0x00) ∧
    (∀ b : Byte, b.getLsbD 7 = true → decode .ps2Set1ToSet2 [b] = .error .notSevenBits) ∧
    ∀ (code : Byte) (f : Bool), ∃ w o, Evaluates s code f w o ∧ w.t2 = s.memRead .t2 (w.t1.extractLsb' 0 7)

/-- XLAT.S1.MK k answers payload T1[k] for every key that is no arrow (R83). -/
def Obligations.XlatS1MkTranslates : Prop :=
  ∀ (s : State) (k : KeyCode), KeyCode.isArrow k = false →
    (opWord true (0#1 ++ k) = 0b10#2 ++ k ∧ decodeOpWord (0b10#2 ++ k) = .xlatS1Mk k) ∧
    ∃ w o, exec (.xlatS1Mk k) s = .next (s.withResult (.translated w o)) ∧
      w.payload = s.tableT1 k ∧ o.res = 0x00#8 ++ 0x00#8 ++ s.tableT1 k ∧ o.len = 1 ∧
      o.seq = [s.tableT1 k] ∧ o.key = k ∧ o.isBreak = false ∧ o.isMake = true ∧
      (s.tableT1 k = 0x00 → o.res = 0x000000#24 ∧ o.seq = [0x00]) ∧
      (FixedEntries s.tableT1 → k = 0x00 → o.res = 0x000000#24) ∧
      (ZeroRange s.tableT1 → 0x45 ≤ k.toNat → k.toNat ≤ 0x64 → o.res = 0x000000#24) ∧
      (FixedEntries s.tableT1 → k = 0x1E → o.res = 0x00001E#24 ∧ o.seq = [0x1E])

/-- XLAT.S1.BR k answers payload T1[k] after 0xF0 for every key that is no arrow (R84). -/
def Obligations.XlatS1BrTranslates : Prop :=
  ∀ (s : State) (k : KeyCode), KeyCode.isArrow k = false →
    (opWord true (1#1 ++ k) = 0b11#2 ++ k ∧ decodeOpWord (0b11#2 ++ k) = .xlatS1Br k) ∧
    ∃ w o, exec (.xlatS1Br k) s = .next (s.withResult (.translated w o)) ∧
      w.payload = s.tableT1 k ∧ o.res = 0x00#8 ++ 0xF0#8 ++ s.tableT1 k ∧ o.len = 2 ∧
      o.seq = [0xF0, s.tableT1 k] ∧ o.key = k ∧ o.isBreak = true ∧ o.isMake = false ∧
      (s.tableT1 k = 0x00 → o.res = 0x00F000#24 ∧ o.seq = [0xF0, 0x00]) ∧
      (FixedEntries s.tableT1 → k = 0x00 → o.res = 0x00F000#24) ∧
      (ZeroRange s.tableT1 → 0x45 ≤ k.toNat → k.toNat ≤ 0x64 → o.res = 0x00F000#24) ∧
      (FixedEntries s.tableT1 → k = 0x1E → o.res = 0x00F01E#24 ∧ o.seq = [0xF0, 0x1E])

/-- XLAT.S2.MK k answers payload T2[T1[k][6:0]] for every key that is no arrow (R85). -/
def Obligations.XlatS2MkTranslates : Prop :=
  ∀ (s : State) (k : KeyCode), KeyCode.isArrow k = false →
    (opWord false (0#1 ++ k) = 0b00#2 ++ k ∧ decodeOpWord (0b00#2 ++ k) = .xlatS2Mk k) ∧
    ∃ w o, exec (.xlatS2Mk k) s = .next (s.withResult (.translated w o)) ∧
      w.payload = s.tableT2 ((s.tableT1 k).extractLsb' 0 7) ∧ o.res = 0x00#8 ++ 0x00#8 ++ s.tableT2 ((s.tableT1 k).extractLsb' 0 7) ∧ o.len = 1 ∧
      o.seq = [s.tableT2 ((s.tableT1 k).extractLsb' 0 7)] ∧ o.key = k ∧ o.isBreak = false ∧ o.isMake = true ∧
      (s.tableT1 k = 0x00 → ZeroAtZero s.tableT2 → o.res = 0x000000#24 ∧ o.seq = [0x00]) ∧
      (s.tableT2 ((s.tableT1 k).extractLsb' 0 7) = 0x00 → o.res = 0x000000#24) ∧
      (FixedEntries s.tableT1 → k = 0x1E → o.res = 0x00#8 ++ 0x00#8 ++ s.tableT2 0x1E ∧ o.seq = [s.tableT2 0x1E])

/-- XLAT.S2.BR k answers payload T2[T1[k][6:0]] after 0xF0 for every key that is no arrow (R86). -/
def Obligations.XlatS2BrTranslates : Prop :=
  ∀ (s : State) (k : KeyCode), KeyCode.isArrow k = false →
    (opWord false (1#1 ++ k) = 0b01#2 ++ k ∧ decodeOpWord (0b01#2 ++ k) = .xlatS2Br k) ∧
    ∃ w o, exec (.xlatS2Br k) s = .next (s.withResult (.translated w o)) ∧
      w.payload = s.tableT2 ((s.tableT1 k).extractLsb' 0 7) ∧ o.res = 0x00#8 ++ 0xF0#8 ++ s.tableT2 ((s.tableT1 k).extractLsb' 0 7) ∧ o.len = 2 ∧
      o.seq = [0xF0, s.tableT2 ((s.tableT1 k).extractLsb' 0 7)] ∧ o.key = k ∧ o.isBreak = true ∧ o.isMake = false ∧
      (s.tableT1 k = 0x00 → ZeroAtZero s.tableT2 → o.res = 0x00F000#24 ∧ o.seq = [0xF0, 0x00]) ∧
      (s.tableT2 ((s.tableT1 k).extractLsb' 0 7) = 0x00 → o.res = 0x00F000#24) ∧
      (FixedEntries s.tableT1 → k = 0x1E → o.res = 0x00#8 ++ 0xF0#8 ++ s.tableT2 0x1E ∧ o.seq = [0xF0, s.tableT2 0x1E])

/-- The four Up operations answer their constants for every table (R92, R93, R94, R95). -/
def Obligations.UpArrowOperations : Prop :=
  ∀ s : State,
    (decodeOpWord 0x148 = .upS1Mk ∧ opWord true 0x48 = 0x148 ∧
      ∃ w o, exec .upS1Mk s = .next (s.withResult (.translated w o)) ∧ w.isExt = true ∧ w.payload = 0x48 ∧
        o = ⟨0x00E048, 2, 0xE0, 0x48, 0x00, 0x48, false, true⟩ ∧
        o.seq = [0xE0, 0x48]) ∧
    (decodeOpWord 0x1C8 = .upS1Br ∧ opWord true 0xC8 = 0x1C8 ∧
      ∃ w o, exec .upS1Br s = .next (s.withResult (.translated w o)) ∧ w.isExt = true ∧ w.payload = 0x48 ∧
        o = ⟨0xE0F048, 3, 0xE0, 0xF0, 0x48, 0x48, true, false⟩ ∧
        o.seq = [0xE0, 0xF0, 0x48]) ∧
    (decodeOpWord 0x048 = .upS2Mk ∧ opWord false 0x48 = 0x048 ∧
      ∃ w o, exec .upS2Mk s = .next (s.withResult (.translated w o)) ∧ w.isExt = true ∧ w.payload = 0x75 ∧
        o = ⟨0x00E075, 2, 0xE0, 0x75, 0x00, 0x48, false, true⟩ ∧
        o.seq = [0xE0, 0x75]) ∧
    (decodeOpWord 0x0C8 = .upS2Br ∧ opWord false 0xC8 = 0x0C8 ∧
      ∃ w o, exec .upS2Br s = .next (s.withResult (.translated w o)) ∧ w.isExt = true ∧ w.payload = 0x75 ∧
        o = ⟨0xE0F075, 3, 0xE0, 0xF0, 0x75, 0x48, true, false⟩ ∧
        o.seq = [0xE0, 0xF0, 0x75])

/-- The four Down operations answer their constants for every table (R96, R97, R98, R99). -/
def Obligations.DownArrowOperations : Prop :=
  ∀ s : State,
    (decodeOpWord 0x150 = .downS1Mk ∧ opWord true 0x50 = 0x150 ∧
      ∃ w o, exec .downS1Mk s = .next (s.withResult (.translated w o)) ∧ w.isExt = true ∧ w.payload = 0x50 ∧
        o = ⟨0x00E050, 2, 0xE0, 0x50, 0x00, 0x50, false, true⟩ ∧
        o.seq = [0xE0, 0x50]) ∧
    (decodeOpWord 0x1D0 = .downS1Br ∧ opWord true 0xD0 = 0x1D0 ∧
      ∃ w o, exec .downS1Br s = .next (s.withResult (.translated w o)) ∧ w.isExt = true ∧ w.payload = 0x50 ∧
        o = ⟨0xE0F050, 3, 0xE0, 0xF0, 0x50, 0x50, true, false⟩ ∧
        o.seq = [0xE0, 0xF0, 0x50]) ∧
    (decodeOpWord 0x050 = .downS2Mk ∧ opWord false 0x50 = 0x050 ∧
      ∃ w o, exec .downS2Mk s = .next (s.withResult (.translated w o)) ∧ w.isExt = true ∧ w.payload = 0x72 ∧
        o = ⟨0x00E072, 2, 0xE0, 0x72, 0x00, 0x50, false, true⟩ ∧
        o.seq = [0xE0, 0x72]) ∧
    (decodeOpWord 0x0D0 = .downS2Br ∧ opWord false 0xD0 = 0x0D0 ∧
      ∃ w o, exec .downS2Br s = .next (s.withResult (.translated w o)) ∧ w.isExt = true ∧ w.payload = 0x72 ∧
        o = ⟨0xE0F072, 3, 0xE0, 0xF0, 0x72, 0x50, true, false⟩ ∧
        o.seq = [0xE0, 0xF0, 0x72])

/-- The four Left operations answer their constants for every table (R100, R101, R102, R103). -/
def Obligations.LeftArrowOperations : Prop :=
  ∀ s : State,
    (decodeOpWord 0x14B = .leftS1Mk ∧ opWord true 0x4B = 0x14B ∧
      ∃ w o, exec .leftS1Mk s = .next (s.withResult (.translated w o)) ∧ w.isExt = true ∧ w.payload = 0x4B ∧
        o = ⟨0x00E04B, 2, 0xE0, 0x4B, 0x00, 0x4B, false, true⟩ ∧
        o.seq = [0xE0, 0x4B]) ∧
    (decodeOpWord 0x1CB = .leftS1Br ∧ opWord true 0xCB = 0x1CB ∧
      ∃ w o, exec .leftS1Br s = .next (s.withResult (.translated w o)) ∧ w.isExt = true ∧ w.payload = 0x4B ∧
        o = ⟨0xE0F04B, 3, 0xE0, 0xF0, 0x4B, 0x4B, true, false⟩ ∧
        o.seq = [0xE0, 0xF0, 0x4B]) ∧
    (decodeOpWord 0x04B = .leftS2Mk ∧ opWord false 0x4B = 0x04B ∧
      ∃ w o, exec .leftS2Mk s = .next (s.withResult (.translated w o)) ∧ w.isExt = true ∧ w.payload = 0x6B ∧
        o = ⟨0x00E06B, 2, 0xE0, 0x6B, 0x00, 0x4B, false, true⟩ ∧
        o.seq = [0xE0, 0x6B]) ∧
    (decodeOpWord 0x0CB = .leftS2Br ∧ opWord false 0xCB = 0x0CB ∧
      ∃ w o, exec .leftS2Br s = .next (s.withResult (.translated w o)) ∧ w.isExt = true ∧ w.payload = 0x6B ∧
        o = ⟨0xE0F06B, 3, 0xE0, 0xF0, 0x6B, 0x4B, true, false⟩ ∧
        o.seq = [0xE0, 0xF0, 0x6B])

/-- The four Right operations answer their constants for every table (R104, R105, R106, R107). -/
def Obligations.RightArrowOperations : Prop :=
  ∀ s : State,
    (decodeOpWord 0x14D = .rightS1Mk ∧ opWord true 0x4D = 0x14D ∧
      ∃ w o, exec .rightS1Mk s = .next (s.withResult (.translated w o)) ∧ w.isExt = true ∧ w.payload = 0x4D ∧
        o = ⟨0x00E04D, 2, 0xE0, 0x4D, 0x00, 0x4D, false, true⟩ ∧
        o.seq = [0xE0, 0x4D]) ∧
    (decodeOpWord 0x1CD = .rightS1Br ∧ opWord true 0xCD = 0x1CD ∧
      ∃ w o, exec .rightS1Br s = .next (s.withResult (.translated w o)) ∧ w.isExt = true ∧ w.payload = 0x4D ∧
        o = ⟨0xE0F04D, 3, 0xE0, 0xF0, 0x4D, 0x4D, true, false⟩ ∧
        o.seq = [0xE0, 0xF0, 0x4D]) ∧
    (decodeOpWord 0x04D = .rightS2Mk ∧ opWord false 0x4D = 0x04D ∧
      ∃ w o, exec .rightS2Mk s = .next (s.withResult (.translated w o)) ∧ w.isExt = true ∧ w.payload = 0x74 ∧
        o = ⟨0x00E074, 2, 0xE0, 0x74, 0x00, 0x4D, false, true⟩ ∧
        o.seq = [0xE0, 0x74]) ∧
    (decodeOpWord 0x0CD = .rightS2Br ∧ opWord false 0xCD = 0x0CD ∧
      ∃ w o, exec .rightS2Br s = .next (s.withResult (.translated w o)) ∧ w.isExt = true ∧ w.payload = 0x74 ∧
        o = ⟨0xE0F074, 3, 0xE0, 0xF0, 0x74, 0x4D, true, false⟩ ∧
        o.seq = [0xE0, 0xF0, 0x74])

/-- For an arrow key every output is the same whatever the tables hold (42_extended_key.md (R69)). -/
def Obligations.ArrowsIgnoreTheTables : Prop :=
  ∀ (s s' : State) (code : Byte) (f : Bool), isExtFlag (keyOf code) = true →
    ∃ w w' o, Evaluates s code f w o ∧ Evaluates s' code f w' o ∧ w.payload = w'.payload

/-- Every evaluation reads T1 at the key and T2 at the low seven bits of the T1 value, and the flag selects the base (R59, R60, R61). -/
def Obligations.RomStageReadsBothTables : Prop :=
  ∀ (s : State) (code : Byte) (f : Bool), ∃ w o, Evaluates s code f w o ∧
    w.t1 = s.tableT1 (keyOf code) ∧ w.t2 = s.tableT2 (w.t1.extractLsb' 0 7) ∧
    (f = true → w.base = w.t1) ∧ (f = false → w.base = w.t2) ∧
    (SevenBit s.tableT1 → (0#1 ++ w.t1.extractLsb' 0 7 : Byte) = w.t1)

/-- The four arrow keys and no others take the hard-coded payload of their set; every other key takes the base (R63, R64, R65). -/
def Obligations.ArrowPayloadOverridesTheTables : Prop :=
  ∀ (s : State) (code : Byte) (f : Bool), ∃ w o, Evaluates s code f w o ∧
    (w.isExt = true ↔ keyOf code = 0x48 ∨ keyOf code = 0x50 ∨ keyOf code = 0x4B ∨ keyOf code = 0x4D) ∧
    (w.isExt = true → f = true → w.payload = 0#1 ++ keyOf code) ∧
    (f = false → (keyOf code = 0x48 → w.payload = 0x75) ∧ (keyOf code = 0x50 → w.payload = 0x72) ∧
      (keyOf code = 0x4B → w.payload = 0x6B) ∧ (keyOf code = 0x4D → w.payload = 0x74)) ∧
    (w.isExt = true → w.arrow = some w.payload) ∧
    (w.isExt = false → w.payload = w.base ∧ (f = true → w.payload = s.tableT1 (keyOf code)) ∧
      (f = false → w.payload = s.tableT2 ((s.tableT1 (keyOf code)).extractLsb' 0 7)))

/-- 0xE0 is there exactly for the arrow keys: bits 15:8 on make, bits 23:16 on break, and sent first (R66, R67). -/
def Obligations.ExtendedPrefixForArrowsOnly : Prop :=
  ∀ (s : State) (code : Byte) (f : Bool), ∃ w o, Evaluates s code f w o ∧
    (isExtFlag (keyOf code) = true → o.seq.head? = some 0xE0 ∧
      (code.getLsbD 7 = false → o.res.extractLsb' 8 8 = 0xE0#8 ∧ o.res.extractLsb' 16 8 = 0x00#8 ∧
        o.seq = [0xE0, w.payload]) ∧
      (code.getLsbD 7 = true → o.res.extractLsb' 16 8 = 0xE0#8 ∧ o.res.extractLsb' 8 8 = 0xF0#8 ∧
        o.seq = [0xE0, 0xF0, w.payload])) ∧
    (isExtFlag (keyOf code) = false → o.res.extractLsb' 16 8 = 0x00#8 ∧ o.res.extractLsb' 8 8 ≠ 0xE0#8 ∧
      (o.seq = [w.payload] ∨ o.seq = [0xF0, w.payload]))

/-- 0xF0 stands directly above the payload exactly on break, whichever set is selected (R70, R71, R73). -/
def Obligations.BreakFramingForBothSets : Prop :=
  ∀ (s : State) (code : Byte) (f : Bool), ∃ w o, Evaluates s code f w o ∧
    (code.getLsbD 7 = true → o.res.extractLsb' 8 8 = 0xF0#8 ∧
      ∃ front, o.seq = front ++ [0xF0, w.payload] ∧ (front = [] ∨ front = [0xE0])) ∧
    (code.getLsbD 7 = false → o.res.extractLsb' 8 8 ≠ 0xF0#8 ∧ (o.seq = [w.payload] ∨ o.seq = [0xE0, w.payload]))

/-- Make and break of a key have the same payload; without an arrow the break only ORs 0xF0 into bits 15:8 (43_break_handler.md (R72), 95_test_vectors.md section 2.4). -/
def Obligations.BreakLeavesThePayload : Prop :=
  ∀ (s : State) (code : Byte) (f : Bool), ∃ w o w' o',
    Evaluates s (code &&& 0x7F) f w o ∧ Evaluates s (code ||| 0x80) f w' o' ∧ w.payload = w'.payload ∧
    (isExtFlag (keyOf code) = false → o'.res = o.res ||| 0x00F000#24)

/-- The packed result and the sequence have the four layouts P, FP, EP, EFP (R40, R41). -/
def Obligations.FourLayouts : Prop :=
  ∀ (s : State) (code : Byte) (f : Bool), ∃ w o, Evaluates s code f w o ∧
    ((isExtFlag (keyOf code) = false ∧ code.getLsbD 7 = false ∧
        o.res = 0x00#8 ++ 0x00#8 ++ w.payload ∧ o.len = 1 ∧ o.seq = [w.payload]) ∨
     (isExtFlag (keyOf code) = false ∧ code.getLsbD 7 = true ∧
        o.res = 0x00#8 ++ 0xF0#8 ++ w.payload ∧ o.len = 2 ∧ o.seq = [0xF0, w.payload]) ∨
     (isExtFlag (keyOf code) = true ∧ code.getLsbD 7 = false ∧
        o.res = 0x00#8 ++ 0xE0#8 ++ w.payload ∧ o.len = 2 ∧ o.seq = [0xE0, w.payload]) ∨
     (isExtFlag (keyOf code) = true ∧ code.getLsbD 7 = true ∧
        o.res = 0xE0#8 ++ 0xF0#8 ++ w.payload ∧ o.len = 3 ∧ o.seq = [0xE0, 0xF0, w.payload]))

/-- len is 1 plus the break prefix plus the extended prefix, never 0, whatever the set and the tables (R77). -/
def Obligations.LengthIsOnePlusThePrefixes : Prop :=
  ∀ (s s' : State) (code : Byte) (f : Bool), ∃ w o w' o', Evaluates s code f w o ∧ Evaluates s' code (!f) w' o' ∧
    o.len.toNat = 1 + (code.getLsbD 7).toNat + (isExtFlag (keyOf code)).toNat ∧ o.seq.length = o.len.toNat ∧
    o'.len = o.len

/-- The slots are the len low bytes of res, topmost first, and 0x00 beyond len (44_output_sequencer.md (R78), log 9). -/
def Obligations.SlotsAreTheBytesInSendingOrder : Prop :=
  ∀ (s : State) (code : Byte) (f : Bool), ∃ w o, Evaluates s code f w o ∧
    (o.len = 1 → o.seq0 = o.res.extractLsb' 0 8 ∧ o.seq1 = 0x00 ∧ o.seq2 = 0x00) ∧
    (o.len = 2 → o.seq0 = o.res.extractLsb' 8 8 ∧ o.seq1 = o.res.extractLsb' 0 8 ∧ o.seq2 = 0x00) ∧
    (o.len = 3 → o.seq0 = o.res.extractLsb' 16 8 ∧ o.seq1 = o.res.extractLsb' 8 8 ∧ o.seq2 = o.res.extractLsb' 0 8) ∧
    (o.len = 1 ∨ o.len = 2 ∨ o.len = 3)

/-- The packed number and the byte sequence determine each other, and len is recovered from res alone (44_output_sequencer.md (R79)). -/
def Obligations.PackedAndSequenceAgree : Prop :=
  ∀ (s : State) (code : Byte) (f : Bool), ∃ w o, Evaluates s code f w o ∧
    packBytes o.seq = o.res ∧ recoveredLen o.res = o.len

/-- An unmapped key gives a zero payload with its normal framing and no other signal (R111). -/
def Obligations.UnmappedKeyIsFramedLikeAnyOther : Prop :=
  ∀ (s : State) (code : Byte) (f : Bool), isExtFlag (keyOf code) = false → s.tableT1 (keyOf code) = 0x00 →
    ZeroAtZero s.tableT2 → ∃ w o, Evaluates s code f w o ∧ w.payload = 0x00 ∧
      (code.getLsbD 7 = false → o.res = 0x000000#24 ∧ o.len = 1 ∧ o.seq = [0x00]) ∧
      (code.getLsbD 7 = true → o.res = 0x00F000#24 ∧ o.len = 2 ∧ o.seq = [0xF0, 0x00])

/-- Under R54 and R56 every key from 0x45 to 0x64 but the arrows gives 0, or 0x00F000 on break, in both sets (41_rom_tables.md (R54, R56), 95_test_vectors.md section 5). -/
def Obligations.ZeroRangeKeysGiveZero : Prop :=
  ∀ (s : State) (code : Byte) (f : Bool), ZeroRange s.tableT1 → ZeroAtZero s.tableT2 →
    0x45 ≤ (keyOf code).toNat → (keyOf code).toNat ≤ 0x64 → isExtFlag (keyOf code) = false →
    ∃ w o, Evaluates s code f w o ∧ o.res = if code.getLsbD 7 then 0x00F000#24 else 0x000000#24

/-- Arrow over table, E0 above F0 above payload, F0 before a zero payload, and the set changes only the payload (R113). -/
def Obligations.PrecedenceOfConditions : Prop :=
  ∀ (s : State) (code : Byte), ∃ w o w' o', Evaluates s code true w o ∧ Evaluates s code false w' o' ∧
    (isExtFlag (keyOf code) = true → w.arrow = some w.payload ∧ w'.arrow = some w'.payload) ∧
    (isExtFlag (keyOf code) = true → code.getLsbD 7 = true →
      o.res = 0xE0#8 ++ 0xF0#8 ++ w.payload ∧ o'.res = 0xE0#8 ++ 0xF0#8 ++ w'.payload) ∧
    (isExtFlag (keyOf code) = false → code.getLsbD 7 = true →
      (w.payload = 0x00 → o.seq = [0xF0, 0x00]) ∧ (w'.payload = 0x00 → o'.seq = [0xF0, 0x00])) ∧
    o.len = o'.len ∧ o.res.extractLsb' 8 16 = o'.res.extractLsb' 8 16 ∧ o.key = o'.key ∧
    o.isBreak = o'.isBreak ∧ o.isMake = o'.isMake

/-- Every translation presents the KeyCode and both predicates, as the taps answer them (10_state.md section 8 (R19), 45_operations.md introduction, log 3). That a tap is evaluated by a step of its own is the model's choice (log 3). -/
def Obligations.HelperOutputsAccompanyTranslation : Prop :=
  ∀ (s : State) (code : Byte) (f : Bool), ∃ w o, Evaluates s code f w o ∧
    exec (.getKey code) s = .next (s.withResult (.key (0#1 ++ o.key))) ∧
    exec (.isBreak code) s = .next (s.withResult (.isBreak o.isBreak)) ∧
    exec (.isMake code) s = .next (s.withResult (.isMake o.isMake))

/-- Any list of input pairs gives the concatenation of toPS2 of each pair, whatever its order and length (10_state.md section 3 (R11), 44_output_sequencer.md (R75, R78), 92_eei_decisions.md D11, log 4, log 19). The concatenation is the harness of D11 (log 19), no part of the block, and the tables as lists of cells are the model's choice (log 4). -/
def Obligations.SessionIsTheConcatenationOfTranslations : Prop :=
  ∀ (l : List (Byte × Bool)) (s : State), ∃ u : State,
    runInputs s l = .next (u, l.flatMap (fun p => (s.toPS2 p.1 p.2).2.seq)) ∧
    u.t1Cells = s.t1Cells ∧ u.t2Cells = s.t2Cells
end

