-- ==== Sys2Proof/Laws/Decode.lean ====
section
/-! SUPPORT. The fields of the operation word, the five cases of decoding, and the byte formats. -/

namespace Sys2Proof

@[simp] theorem opWordSet1_opWord (f : Bool) (code : Byte) : opWordSet1 (opWord f code) = f := by
  revert code; cases f <;> decide

@[simp] theorem opWordBreak_opWord (f : Bool) (code : Byte) : opWordBreak (opWord f code) = code.getLsbD 7 := by
  revert code; cases f <;> decide

@[simp] theorem opWordKey_opWord (f : Bool) (code : Byte) : opWordKey (opWord f code) = code.extractLsb' 0 7 := by
  revert code; cases f <;> decide

/-- An operation word is its two inputs. -/
theorem opWord_fields (w : OpWord) : opWord (opWordSet1 w) (w.extractLsb' 0 8) = w := by
  revert w; decide

theorem decodeOpWord_up (w : OpWord) (h : opWordKey w = 0x48#7) :
    decodeOpWord w = decodeUp (opWordSet1 w) (opWordBreak w) := by simp [decodeOpWord, h]

theorem decodeOpWord_down (w : OpWord) (h : opWordKey w = 0x50#7) :
    decodeOpWord w = decodeDown (opWordSet1 w) (opWordBreak w) := by simp [decodeOpWord, h]

theorem decodeOpWord_left (w : OpWord) (h : opWordKey w = 0x4B#7) :
    decodeOpWord w = decodeLeft (opWordSet1 w) (opWordBreak w) := by simp [decodeOpWord, h]

theorem decodeOpWord_right (w : OpWord) (h : opWordKey w = 0x4D#7) :
    decodeOpWord w = decodeRight (opWordSet1 w) (opWordBreak w) := by simp [decodeOpWord, h]

theorem decodeOpWord_general (w : OpWord) (h : KeyCode.isArrow (opWordKey w) = false) :
    decodeOpWord w = decodeGeneral (opWordSet1 w) (opWordBreak w) (opWordKey w) := by
  simp only [KeyCode.isArrow, Bool.or_eq_false_iff, decide_eq_false_iff_not] at h
  simp [decodeOpWord, h]

/-- A key is one of the four arrows or none of them. -/
theorem arrow_cases (k : KeyCode) :
    k = 0x48#7 ∨ k = 0x50#7 ∨ k = 0x4B#7 ∨ k = 0x4D#7 ∨ KeyCode.isArrow k = false := by
  by_cases a : k = 0x48#7
  · exact .inl a
  by_cases b : k = 0x50#7
  · exact .inr (.inl b)
  by_cases c : k = 0x4B#7
  · exact .inr (.inr (.inl c))
  by_cases d : k = 0x4D#7
  · exact .inr (.inr (.inr (.inl d)))
  exact .inr (.inr (.inr (.inr (by simp [KeyCode.isArrow, a, b, c, d]))))

/-- The two texts of R63 and R83 name the same four keys. -/
theorem isExtFlag_eq_isArrow (k : KeyCode) : Machine.isExtFlag k = KeyCode.isArrow k := by
  revert k; decide

/-- The bytes of an operation word are accepted and mean that word. -/
theorem decode_opWordBytes (w : OpWord) : decode .toPS2 (opWordBytes w) = .ok (decodeOpWord w) := by
  have top : (BitVec.setWidth 8 (w.extractLsb' 8 1)).extractLsb' 1 7 = 0#7 := by revert w; decide
  have flag : (BitVec.setWidth 8 (w.extractLsb' 8 1)).getLsbD 0 = opWordSet1 w := by revert w; decide
  simp only [decode, decodeOpw, opWordBytes, top, if_true, flag, opWord_fields]

/-- The byte of a 7-bit index is accepted and means that index. -/
theorem decodeRom_index (make : KeyCode → Instr) (i : KeyCode) : decodeRom make [0#1 ++ i] = .ok (make i) := by
  have top : (0#1 ++ i : Byte).getLsbD 7 = false := by revert i; decide
  have low : (0#1 ++ i : Byte).extractLsb' 0 7 = i := by revert i; decide
  simp only [decodeRom, top, low, Bool.false_eq_true, if_false]

end Sys2Proof
end

