-- ==== Sys2Proof/Laws/State.lean ====
section
/-! SUPPORT. One lemma per field for each update of the state. -/

namespace Sys2Proof.Machine

variable (s : State) (r r' : Result) (code code' : Byte) (f f' : Bool)

@[simp] theorem withResult_t1Cells : (s.withResult r).t1Cells = s.t1Cells := rfl
@[simp] theorem withResult_t2Cells : (s.withResult r).t2Cells = s.t2Cells := rfl
@[simp] theorem withResult_call : (s.withResult r).call = s.call := rfl
@[simp] theorem withResult_code : (s.withResult r).code = s.code := rfl
@[simp] theorem withResult_useSet1 : (s.withResult r).useSet1 = s.useSet1 := rfl
@[simp] theorem withResult_result : (s.withResult r).result = r := rfl
@[simp] theorem withResult_withResult : (s.withResult r).withResult r' = s.withResult r' := rfl
@[simp] theorem withResult_cells (sp : Space) : (s.withResult r).cells sp = s.cells sp := by cases sp <;> rfl
@[simp] theorem withResult_memRead (sp : Space) (i : KeyCode) : (s.withResult r).memRead sp i = s.memRead sp i := by
  simp [State.memRead]
@[simp] theorem withResult_tableT1 : (s.withResult r).tableT1 = s.tableT1 := rfl
@[simp] theorem withResult_tableT2 : (s.withResult r).tableT2 = s.tableT2 := rfl
@[simp] theorem withResult_operation : (s.withResult r).operation = s.operation := rfl
@[simp] theorem withResult_present : (s.withResult r).present code f = (s.present code f).withResult r := rfl

@[simp] theorem present_t1Cells : (s.present code f).t1Cells = s.t1Cells := rfl
@[simp] theorem present_t2Cells : (s.present code f).t2Cells = s.t2Cells := rfl
@[simp] theorem present_call : (s.present code f).call = .toPS2 := rfl
@[simp] theorem present_code : (s.present code f).code = code := rfl
@[simp] theorem present_useSet1 : (s.present code f).useSet1 = f := rfl
@[simp] theorem present_result : (s.present code f).result = s.result := rfl
@[simp] theorem present_present : (s.present code f).present code' f' = s.present code' f' := rfl
@[simp] theorem present_cells (sp : Space) : (s.present code f).cells sp = s.cells sp := by cases sp <;> rfl
@[simp] theorem present_memRead (sp : Space) (i : KeyCode) : (s.present code f).memRead sp i = s.memRead sp i := by
  simp [State.memRead]
@[simp] theorem present_tableT1 : (s.present code f).tableT1 = s.tableT1 := rfl
@[simp] theorem present_tableT2 : (s.present code f).tableT2 = s.tableT2 := rfl
@[simp] theorem present_operation : (s.present code f).operation = decodeOpWord (opWord f code) := rfl

end Sys2Proof.Machine
end

