-- ==== Sys2Proof/Laws/Ops.lean ====
section
/-! SUPPORT. One lemma for each shared operation: what a translation answers, and that the layouts of R40 are the
accumulation of R75. -/

namespace Sys2Proof.Machine

/-- A translation changes the answer and nothing else. -/
theorem translate_only_result (s : State) (set1 brk : Bool) (k : KeyCode) (arrow : Option Byte) :
    ∃ w o, s.translate set1 brk k arrow = s.withResult (.translated w o) := ⟨_, _, rfl⟩

/-- The layout gives the number that OR-ing from zero gives (R40, R74, R75). -/
theorem layout_res_eq_packOr (isExt isBreak : Bool) (payload : Byte) :
    (Layout.of isExt isBreak).res payload = packOr payload isExt isBreak := by
  revert payload; cases isExt <;> cases isBreak <;> decide

/-- The layout gives the length of R77. -/
theorem layout_len_eq_lengthOf (isExt isBreak : Bool) : (Layout.of isExt isBreak).len = lengthOf isExt isBreak := by
  cases isExt <;> cases isBreak <;> rfl

/-- The ports written as layouts are the ports cut out of the accumulated result (R40, R41 against R75, R77, R78). -/
theorem layout_ports_eq_accumulated (key : KeyCode) (isExt isBreak : Bool) (payload : Byte) :
    (Layout.of isExt isBreak).ports key isBreak payload = accumulatedPorts key isExt isBreak payload := by
  have slots : ∀ p : Byte,
      (Layout.of isExt isBreak).res p = packOr p isExt isBreak ∧
      (Layout.of isExt isBreak).seq0 p = (accumulatedPorts 0 isExt isBreak p).seq0 ∧
      (Layout.of isExt isBreak).seq1 p = (accumulatedPorts 0 isExt isBreak p).seq1 ∧
      (Layout.of isExt isBreak).seq2 p = (accumulatedPorts 0 isExt isBreak p).seq2 := by
    cases isExt <;> cases isBreak <;> decide
  obtain ⟨res, first, second, third⟩ := slots payload
  simp only [Layout.ports, layout_len_eq_lengthOf, res, first, second, third]
  rfl

/-- The lowest byte of every layout is the payload (R76). -/
theorem layout_lowest (l : Layout) (payload : Byte) : (l.res payload).extractLsb' 0 8 = payload := by
  revert payload; cases l <;> decide

/-- Bits 15 to 8 of every layout (R40). -/
theorem layout_middle (isExt isBreak : Bool) (payload : Byte) :
    ((Layout.of isExt isBreak).res payload).extractLsb' 8 8 =
      if isBreak then 0xF0#8 else if isExt then 0xE0#8 else 0x00#8 := by
  revert payload; cases isExt <;> cases isBreak <;> decide

/-- Bits 23 to 16 of every layout (R40). -/
theorem layout_top (isExt isBreak : Bool) (payload : Byte) :
    ((Layout.of isExt isBreak).res payload).extractLsb' 16 8 = if isExt && isBreak then 0xE0#8 else 0x00#8 := by
  revert payload; cases isExt <;> cases isBreak <;> decide

end Sys2Proof.Machine
end

