-- ==== Sys2Proof/Laws/Meanings.lean ====
section
/-! SUPPORT. What an operation can do, said once: it answers, and it changes the answer alone. -/

namespace Sys2Proof.Machine

/-- Every operation answers a next state that differs from the old one in the answer alone. -/
theorem exec_answers (i : Instr) (s : State) : ∃ r, exec i s = .next (s.withResult r) := by
  cases i <;> exact ⟨_, rfl⟩

/-- The operation's answer does not depend on the answer before it. -/
theorem exec_withResult (i : Instr) (s : State) (r : Result) : exec i (s.withResult r) = exec i s := by
  cases i <;> rfl

/-- Inversion: what an operation that answered did. -/
theorem exec_next {i : Instr} {s t : State} (h : exec i s = .next t) : ∃ r, t = s.withResult r := by
  obtain ⟨r, eq⟩ := exec_answers i s
  exact ⟨r, by rw [eq] at h; exact (Host.Outcome.next.inj h).symm⟩

/-- A step is the presented operation. -/
theorem step_eq (s : State) : step s = exec s.operation s := rfl

/-- Every step answers, and changes the answer alone. -/
theorem step_answers (s : State) : ∃ r, step s = .next (s.withResult r) := exec_answers s.operation s

/-! ## What an operation word does, said once -/

/-- The hard-coded payload of an arrow key, none for any other key (R64). -/
def arrowPayload (set1 : Bool) (k : KeyCode) : Option Byte :=
  if k = 0x48#7 then some (if set1 then 0x48 else 0x75)
  else if k = 0x50#7 then some (if set1 then 0x50 else 0x72)
  else if k = 0x4B#7 then some (if set1 then 0x4B else 0x6B)
  else if k = 0x4D#7 then some (if set1 then 0x4D else 0x74)
  else none

theorem arrowPayload_of_not_arrow (set1 : Bool) (k : KeyCode) (h : KeyCode.isArrow k = false) :
    arrowPayload set1 k = none := by
  simp only [KeyCode.isArrow, Bool.or_eq_false_iff, decide_eq_false_iff_not] at h
  simp [arrowPayload, h]

theorem arrowPayload_isSome (set1 : Bool) (k : KeyCode) : (arrowPayload set1 k).isSome = isExtFlag k := by
  revert k; cases set1 <;> decide

/-- The operation a word decodes to is the translation of the word's three fields. -/
theorem exec_decodeOpWord (w : OpWord) (s : State) :
    exec (decodeOpWord w) s =
      .next (s.translate (opWordSet1 w) (opWordBreak w) (opWordKey w) (arrowPayload (opWordSet1 w) (opWordKey w))) := by
  rcases arrow_cases (opWordKey w) with h | h | h | h | h
  · rw [decodeOpWord_up w h, h]; cases opWordSet1 w <;> cases opWordBreak w <;> rfl
  · rw [decodeOpWord_down w h, h]; cases opWordSet1 w <;> cases opWordBreak w <;> rfl
  · rw [decodeOpWord_left w h, h]; cases opWordSet1 w <;> cases opWordBreak w <;> rfl
  · rw [decodeOpWord_right w h, h]; cases opWordSet1 w <;> cases opWordBreak w <;> rfl
  · rw [decodeOpWord_general w h, arrowPayload_of_not_arrow _ _ h]
    cases opWordSet1 w <;> cases opWordBreak w <;> rfl

/-- A presented pair is evaluated as the translation of its fields. -/
theorem step_present (s : State) (code : Byte) (f : Bool) :
    step (s.present code f) =
      .next ((s.present code f).translate f (code.getLsbD 7) (keyOf code) (arrowPayload f (keyOf code))) := by
  simp only [step_eq, present_operation, exec_decodeOpWord, opWordSet1_opWord, opWordBreak_opWord, opWordKey_opWord, keyOf]

end Sys2Proof.Machine
end

