-- ==== Sys2Proof/Laws/Memory.lean ====
section
/-! SUPPORT. The laws of the tables as lists of cells: reading after filling, and the canonical form. -/

namespace Sys2Proof.Machine

/-! ## Looking up -/

theorem lookup_put (m : Memory) (a x : Nat) (b : Byte) (rising : m.Pairwise (fun p q => p.1 < q.1)) :
    Memory.lookup (Memory.put m a b) x = if x = a then some b else Memory.lookup m x := by
  induction m with
  | nil => simp [Memory.put, Memory.lookup, eq_comm]
  | cons c rest ih =>
    obtain ⟨y, d⟩ := c
    have tail := (List.pairwise_cons.mp rising).2
    by_cases below : a < y
    · simp only [Memory.put, below, if_true, Memory.lookup]
      grind
    · by_cases same : a = y
      · simp only [Memory.put, same, lt_irrefl, if_false, if_true, Memory.lookup]
        grind
      · simp only [Memory.put, below, same, if_false, Memory.lookup, ih tail]
        grind

theorem lookup_erase (m : Memory) (a x : Nat) :
    Memory.lookup (Memory.erase m a) x = if x = a then none else Memory.lookup m x := by
  induction m with
  | nil => simp [Memory.erase, Memory.lookup]
  | cons c rest ih =>
    obtain ⟨y, d⟩ := c
    by_cases same : y = a
    · have dropped : Memory.erase ((y, d) :: rest) a = Memory.erase rest a := by simp [Memory.erase, same]
      rw [dropped, ih]
      simp only [Memory.lookup]
      grind
    · have kept : Memory.erase ((y, d) :: rest) a = (y, d) :: Memory.erase rest a := by simp [Memory.erase, same]
      rw [kept]
      simp only [Memory.lookup, ih]
      grind

/-! ## Reading -/

@[simp] theorem read_nil (sp : Space) (i : KeyCode) : Memory.read sp [] i = Memory.unlisted sp i.toNat := rfl

/-- A filled cell reads as what was filled in. -/
theorem read_write_same (sp : Space) (m : Memory) (i : KeyCode) (b : Byte) (form : Memory.wf sp m) :
    Memory.read sp (Memory.write sp m i b) i = b := by
  unfold Memory.read Memory.write
  split
  next same => simp [lookup_erase, same]
  next => simp [lookup_put _ _ _ _ form.1]

/-- Filling a cell leaves every other cell alone. -/
theorem read_write_other (sp : Space) (m : Memory) (i j : KeyCode) (b : Byte) (form : Memory.wf sp m) (other : j ≠ i) :
    Memory.read sp (Memory.write sp m i b) j = Memory.read sp m j := by
  have apart : j.toNat ≠ i.toNat := fun h => other (BitVec.eq_of_toNat_eq h)
  unfold Memory.read Memory.write
  split
  · simp [lookup_erase, apart]
  · simp [lookup_put _ _ _ _ form.1, apart]

/-! ## The canonical form -/

theorem mem_put (m : Memory) (a : Nat) (b : Byte) (c : Host.Cell) (h : c ∈ Memory.put m a b) : c = (a, b) ∨ c ∈ m := by
  induction m with
  | nil => simpa [Memory.put] using h
  | cons d rest ih =>
    obtain ⟨y, e⟩ := d
    simp only [Memory.put] at h
    split at h
    · simpa using h
    · split at h
      · rcases List.mem_cons.mp h with h | h
        · exact .inl h
        · exact .inr (List.mem_cons_of_mem _ h)
      · rcases List.mem_cons.mp h with h | h
        · exact .inr (by simp [h])
        · exact (ih h).imp_right (List.mem_cons_of_mem _)

theorem put_rising (m : Memory) (a : Nat) (b : Byte) (rising : m.Pairwise (fun p q => p.1 < q.1)) :
    (Memory.put m a b).Pairwise (fun p q => p.1 < q.1) := by
  induction m with
  | nil => simp [Memory.put]
  | cons d rest ih =>
    obtain ⟨y, e⟩ := d
    obtain ⟨first, tail⟩ := List.pairwise_cons.mp rising
    simp only [Memory.put]
    split
    next below =>
      refine List.pairwise_cons.mpr ⟨fun c hc => ?_, rising⟩
      rcases List.mem_cons.mp hc with rfl | hc
      · exact below
      · exact lt_trans below (first c hc)
    next =>
      split
      next same => subst same; exact List.pairwise_cons.mpr ⟨first, tail⟩
      next =>
        refine List.pairwise_cons.mpr ⟨fun c hc => ?_, ih tail⟩
        rcases mem_put _ _ _ _ hc with rfl | hc
        · simp only; omega
        · exact first c hc

/-- Filling a cell keeps the canonical form. -/
theorem write_wf (sp : Space) (m : Memory) (i : KeyCode) (b : Byte) (form : Memory.wf sp m) :
    Memory.wf sp (Memory.write sp m i b) := by
  unfold Memory.write
  split
  · exact ⟨form.1.filter _, fun c hc => form.2 c (List.mem_filter.mp hc).1⟩
  next differs =>
    refine ⟨put_rising _ _ _ form.1, fun c hc => ?_⟩
    rcases mem_put _ _ _ _ hc with rfl | hc
    · exact ⟨i.isLt, differs⟩
    · exact form.2 c hc

/-- The empty list is canonical. -/
theorem nil_wf (sp : Space) : Memory.wf sp [] := by simp [Memory.wf]

/-- The tables at power-up are canonical. -/
theorem reset_cells_wf (sp : Space) : Memory.wf sp (State.reset.cells sp) := by
  cases sp <;> exact nil_wf _

end Sys2Proof.Machine
end

