-- ==== Sys2Proof/Laws/PerInstr.lean ====
section
/-! SUPPORT. Statements made per operation. Family EncodesInFormat: the bytes the encoder gives are always bytes of the
call's format, so the decoder rejects none of them. -/

namespace Sys2Proof.Laws.EncodesInFormat

/-- The decoder accepts the operation's bytes. -/
def Statement (i : Instr) : Prop := ∃ j, decode (encode i).1 (encode i).2 = .ok j

theorem upS1Mk : Statement .upS1Mk := ⟨_, decode_opWordBytes _⟩
theorem upS1Br : Statement .upS1Br := ⟨_, decode_opWordBytes _⟩
theorem upS2Mk : Statement .upS2Mk := ⟨_, decode_opWordBytes _⟩
theorem upS2Br : Statement .upS2Br := ⟨_, decode_opWordBytes _⟩
theorem downS1Mk : Statement .downS1Mk := ⟨_, decode_opWordBytes _⟩
theorem downS1Br : Statement .downS1Br := ⟨_, decode_opWordBytes _⟩
theorem downS2Mk : Statement .downS2Mk := ⟨_, decode_opWordBytes _⟩
theorem downS2Br : Statement .downS2Br := ⟨_, decode_opWordBytes _⟩
theorem leftS1Mk : Statement .leftS1Mk := ⟨_, decode_opWordBytes _⟩
theorem leftS1Br : Statement .leftS1Br := ⟨_, decode_opWordBytes _⟩
theorem leftS2Mk : Statement .leftS2Mk := ⟨_, decode_opWordBytes _⟩
theorem leftS2Br : Statement .leftS2Br := ⟨_, decode_opWordBytes _⟩
theorem rightS1Mk : Statement .rightS1Mk := ⟨_, decode_opWordBytes _⟩
theorem rightS1Br : Statement .rightS1Br := ⟨_, decode_opWordBytes _⟩
theorem rightS2Mk : Statement .rightS2Mk := ⟨_, decode_opWordBytes _⟩
theorem rightS2Br : Statement .rightS2Br := ⟨_, decode_opWordBytes _⟩
theorem xlatS1Mk (k : KeyCode) : Statement (.xlatS1Mk k) := ⟨_, decode_opWordBytes _⟩
theorem xlatS1Br (k : KeyCode) : Statement (.xlatS1Br k) := ⟨_, decode_opWordBytes _⟩
theorem xlatS2Mk (k : KeyCode) : Statement (.xlatS2Mk k) := ⟨_, decode_opWordBytes _⟩
theorem xlatS2Br (k : KeyCode) : Statement (.xlatS2Br k) := ⟨_, decode_opWordBytes _⟩
theorem getKey (code : Byte) : Statement (.getKey code) := ⟨_, rfl⟩
theorem isBreak (code : Byte) : Statement (.isBreak code) := ⟨_, rfl⟩
theorem isMake (code : Byte) : Statement (.isMake code) := ⟨_, rfl⟩
theorem st2s1 (i : KeyCode) : Statement (.st2s1 i) := ⟨_, decodeRom_index _ _⟩
theorem s12s2 (i : KeyCode) : Statement (.s12s2 i) := ⟨_, decodeRom_index _ _⟩

end Sys2Proof.Laws.EncodesInFormat
end

