-- ==== Sys2Proof/Tests/Slice0.lean ====
section
/-! SUPPORT. The model's own tests. Expected values come from spec/: the word patterns of 30_encoding.md R38 and the
vectors of 95_test_vectors.md; "REF" values hold under the informative tables of 49_reference_tables.md only. -/

namespace Sys2Proof.Machine.Tests

/-- A list of bytes as cells from index 0. -/
def listing (bytes : List Byte) : Memory := (List.range bytes.length).zip bytes

/-- Power-up with the reference tables for the tables. -/
def refState : State := { State.reset with t1Cells := listing refT1Bytes, t2Cells := listing refT2Bytes }

/-- A T1 value with bit 7 set, outside the premise of R57, and its T2 cell (95_test_vectors.md section 2.2). -/
def wideState : State := { State.reset with t1Cells := [(0x10, 0x9E)], t2Cells := [(0x1E, 0x1C)] }

/-- Tables that are not zero at the arrow keys (95_test_vectors.md section 2.7, independence check). -/
def oddState : State :=
  { State.reset with t1Cells := [(0x48, 0x12), (0x4B, 0x34), (0x4D, 0x56), (0x50, 0x78)], t2Cells := [(0x12, 0xAA)] }

/-- The answer of an outcome. -/
def answer (r : Host.Outcome State Fault Refusal) : Option Result :=
  match r with
  | .next t => some t.result
  | .fault _ => none
  | .refused _ => none

/-- The packed result, the length and the sequence of an outcome. -/
def packed (r : Host.Outcome State Fault Refusal) : Option (Packed × BitVec 2 × List Byte) :=
  match answer r with
  | some (.translated _ p) => some (p.res, p.len, p.seq)
  | _ => none

/-! ## Well-formedness: each check refuses an ill-formed term -/

theorem test_wf_xlatS1Mk_refuses_the_arrows :
    [0x48, 0x50, 0x4B, 0x4D].map (fun k => (Instr.xlatS1Mk k).wf) = [false, false, false, false] := by decide

theorem test_wf_xlatS1Mk_takes_the_neighbours :
    [0x47, 0x49, 0x4A, 0x4C, 0x4E, 0x4F, 0x51, 0x7F].all (fun k => (Instr.xlatS1Mk k).wf) = true := by decide

theorem test_wf_xlatS1Br_refuses_the_arrows :
    [0x48, 0x50, 0x4B, 0x4D].map (fun k => (Instr.xlatS1Br k).wf) = [false, false, false, false] := by decide

theorem test_wf_xlatS1Br_takes_the_neighbours :
    [0x47, 0x49, 0x4A, 0x4C, 0x4E, 0x4F, 0x51, 0x7F].all (fun k => (Instr.xlatS1Br k).wf) = true := by decide

theorem test_wf_xlatS2Mk_refuses_the_arrows :
    [0x48, 0x50, 0x4B, 0x4D].map (fun k => (Instr.xlatS2Mk k).wf) = [false, false, false, false] := by decide

theorem test_wf_xlatS2Mk_takes_the_neighbours :
    [0x47, 0x49, 0x4A, 0x4C, 0x4E, 0x4F, 0x51, 0x7F].all (fun k => (Instr.xlatS2Mk k).wf) = true := by decide

theorem test_wf_xlatS2Br_refuses_the_arrows :
    [0x48, 0x50, 0x4B, 0x4D].map (fun k => (Instr.xlatS2Br k).wf) = [false, false, false, false] := by decide

theorem test_wf_xlatS2Br_takes_the_neighbours :
    [0x47, 0x49, 0x4A, 0x4C, 0x4E, 0x4F, 0x51, 0x7F].all (fun k => (Instr.xlatS2Br k).wf) = true := by decide

/-! ## Decoding: one word per constructor, written out from R38 -/

theorem test_decode_upS1Mk : decodeOpWord 0b101001000#9 = .upS1Mk := by decide
theorem test_decode_upS1Br : decodeOpWord 0b111001000#9 = .upS1Br := by decide
theorem test_decode_upS2Mk : decodeOpWord 0b001001000#9 = .upS2Mk := by decide
theorem test_decode_upS2Br : decodeOpWord 0b011001000#9 = .upS2Br := by decide
theorem test_decode_downS1Mk : decodeOpWord 0b101010000#9 = .downS1Mk := by decide
theorem test_decode_downS1Br : decodeOpWord 0b111010000#9 = .downS1Br := by decide
theorem test_decode_downS2Mk : decodeOpWord 0b001010000#9 = .downS2Mk := by decide
theorem test_decode_downS2Br : decodeOpWord 0b011010000#9 = .downS2Br := by decide
theorem test_decode_leftS1Mk : decodeOpWord 0b101001011#9 = .leftS1Mk := by decide
theorem test_decode_leftS1Br : decodeOpWord 0b111001011#9 = .leftS1Br := by decide
theorem test_decode_leftS2Mk : decodeOpWord 0b001001011#9 = .leftS2Mk := by decide
theorem test_decode_leftS2Br : decodeOpWord 0b011001011#9 = .leftS2Br := by decide
theorem test_decode_rightS1Mk : decodeOpWord 0b101001101#9 = .rightS1Mk := by decide
theorem test_decode_rightS1Br : decodeOpWord 0b111001101#9 = .rightS1Br := by decide
theorem test_decode_rightS2Mk : decodeOpWord 0b001001101#9 = .rightS2Mk := by decide
theorem test_decode_rightS2Br : decodeOpWord 0b011001101#9 = .rightS2Br := by decide
theorem test_decode_xlatS1Mk : decodeOpWord 0b100011110#9 = .xlatS1Mk 0x1E := by decide
theorem test_decode_xlatS1Br : decodeOpWord 0b110000000#9 = .xlatS1Br 0x00 := by decide
theorem test_decode_xlatS2Mk : decodeOpWord 0b001000001#9 = .xlatS2Mk 0x41 := by decide
theorem test_decode_xlatS2Br : decodeOpWord 0b011111111#9 = .xlatS2Br 0x7F := by decide
theorem test_decode_getKey : decode .getKey [0b11001000#8] = .ok (.getKey 0xC8) := by decide
theorem test_decode_isBreak : decode .isBreak [0b10011110#8] = .ok (.isBreak 0x9E) := by decide
theorem test_decode_isMake : decode .isMake [0b10000000#8] = .ok (.isMake 0x80) := by decide
theorem test_decode_st2s1 : decode .stToPS2Set1 [0b00011110#8] = .ok (.st2s1 0x1E) := by decide
theorem test_decode_s12s2 : decode .ps2Set1ToSet2 [0b01111111#8] = .ok (.s12s2 0x7F) := by decide
theorem test_decode_word_bytes : decode .toPS2 [0xC8, 0x01] = .ok .upS1Br := by decide

/-! Bytes beyond the formats are rejected by name. -/

theorem test_decode_no_bytes : decode .toPS2 [] = .error .wrongLength := by decide
theorem test_decode_three_bytes : decode .toPS2 [0x48, 0x01, 0x00] = .error .wrongLength := by decide
theorem test_decode_ten_bits : decode .toPS2 [0x48, 0x02] = .error .notNineBits := by decide
theorem test_decode_eight_bit_index : decode .ps2Set1ToSet2 [0x80] = .error .notSevenBits := by decide
theorem test_decode_two_tap_bytes : decode .getKey [0x48, 0x00] = .error .wrongLength := by decide

/-! The host's word numbering. -/

theorem test_table_word_up_s1_br : decodeTableWord 16 0x1C8 = some .upS1Br := by decide
theorem test_table_word_xlat_s2_br : decodeTableWord 16 0x0FF = some (.xlatS2Br 0x7F) := by decide
theorem test_table_word_too_wide : decodeTableWord 16 0x348 = none := by decide
theorem test_table_word_runs : answer (step (State.reset.withFetchWord 16 0x0C8)) = answer (exec .upS2Br State.reset) := by
  decide

/-! ## Arrow operations (section 2.7), with the tables at power-up and with tables that are not zero there -/

theorem test_upS1Mk : packed (exec .upS1Mk State.reset) = some (0x00E048, 2, [0xE0, 0x48]) := by decide
theorem test_upS1Br : packed (exec .upS1Br State.reset) = some (0xE0F048, 3, [0xE0, 0xF0, 0x48]) := by decide
theorem test_upS2Mk : packed (exec .upS2Mk State.reset) = some (0x00E075, 2, [0xE0, 0x75]) := by decide
theorem test_upS2Br : packed (exec .upS2Br State.reset) = some (0xE0F075, 3, [0xE0, 0xF0, 0x75]) := by decide
theorem test_downS1Mk : packed (exec .downS1Mk State.reset) = some (0x00E050, 2, [0xE0, 0x50]) := by decide
theorem test_downS1Br : packed (exec .downS1Br State.reset) = some (0xE0F050, 3, [0xE0, 0xF0, 0x50]) := by decide
theorem test_downS2Mk : packed (exec .downS2Mk State.reset) = some (0x00E072, 2, [0xE0, 0x72]) := by decide
theorem test_downS2Br : packed (exec .downS2Br State.reset) = some (0xE0F072, 3, [0xE0, 0xF0, 0x72]) := by decide
theorem test_leftS1Mk : packed (exec .leftS1Mk State.reset) = some (0x00E04B, 2, [0xE0, 0x4B]) := by decide
theorem test_leftS1Br : packed (exec .leftS1Br State.reset) = some (0xE0F04B, 3, [0xE0, 0xF0, 0x4B]) := by decide
theorem test_leftS2Mk : packed (exec .leftS2Mk State.reset) = some (0x00E06B, 2, [0xE0, 0x6B]) := by decide
theorem test_leftS2Br : packed (exec .leftS2Br State.reset) = some (0xE0F06B, 3, [0xE0, 0xF0, 0x6B]) := by decide
theorem test_rightS1Mk : packed (exec .rightS1Mk State.reset) = some (0x00E04D, 2, [0xE0, 0x4D]) := by decide
theorem test_rightS1Br : packed (exec .rightS1Br State.reset) = some (0xE0F04D, 3, [0xE0, 0xF0, 0x4D]) := by decide
theorem test_rightS2Mk : packed (exec .rightS2Mk State.reset) = some (0x00E074, 2, [0xE0, 0x74]) := by decide
theorem test_rightS2Br : packed (exec .rightS2Br State.reset) = some (0xE0F074, 3, [0xE0, 0xF0, 0x74]) := by decide
theorem test_arrows_ignore_odd_tables :
    packed (exec .upS1Br oddState) = some (0xE0F048, 3, [0xE0, 0xF0, 0x48]) ∧
    packed (exec .leftS2Mk oddState) = some (0x00E06B, 2, [0xE0, 0x6B]) := by decide
theorem test_upS2Br_order_of_prefixes : packed (exec .upS2Br State.reset) ≠ some (0xF0E075, 3, [0xF0, 0xE0, 0x75]) := by
  decide

/-! ## General operations (sections 2.4 and 2.6) -/

theorem test_xlatS1Mk_A : packed (exec (.xlatS1Mk 0x1E) State.reset) = some (0x00001E, 1, [0x1E]) := by decide
theorem test_xlatS1Br_A : packed (exec (.xlatS1Br 0x1E) State.reset) = some (0x00F01E, 2, [0xF0, 0x1E]) := by decide
theorem test_xlatS1Mk_zero_range : packed (exec (.xlatS1Mk 0x62) State.reset) = some (0x000000, 1, [0x00]) := by decide
theorem test_xlatS1Br_unmapped : packed (exec (.xlatS1Br 0x00) State.reset) = some (0x00F000, 2, [0xF0, 0x00]) := by decide
theorem test_xlatS2Mk_F7_ref : packed (exec (.xlatS2Mk 0x41) refState) = some (0x000083, 1, [0x83]) := by decide +kernel
theorem test_xlatS2Br_F7_ref : packed (exec (.xlatS2Br 0x41) refState) = some (0x00F083, 2, [0xF0, 0x83]) := by decide +kernel
theorem test_xlatS2Mk_wide_t1 : packed (exec (.xlatS2Mk 0x10) wideState) = some (0x00001C, 1, [0x1C]) := by decide
theorem test_xlatS2Br_zero_range : packed (exec (.xlatS2Br 0x62) State.reset) = some (0x00F000, 2, [0xF0, 0x00]) := by decide
theorem test_xlatS1Mk_wide_t1 : packed (exec (.xlatS1Mk 0x10) wideState) = some (0x00009E, 1, [0x9E]) := by decide

/-! ## Taps (section 2.1) and table reads -/

theorem test_getKey_break_byte : answer (exec (.getKey 0xC8) State.reset) = some (.key 0x48) := by decide
theorem test_getKey_alternating : answer (exec (.getKey 0xAA) State.reset) = some (.key 0x2A) := by decide
theorem test_isBreak_edges :
    answer (exec (.isBreak 0x7F) State.reset) = some (.isBreak false) ∧
    answer (exec (.isBreak 0x80) State.reset) = some (.isBreak true) := by decide
theorem test_isMake_edges :
    answer (exec (.isMake 0x7F) State.reset) = some (.isMake true) ∧
    answer (exec (.isMake 0x80) State.reset) = some (.isMake false) := by decide
theorem test_st2s1_fixed :
    answer (exec (.st2s1 0x1E) State.reset) = some (.set1Code 0x1E) ∧
    answer (exec (.st2s1 0x64) State.reset) = some (.set1Code 0x00) := by decide
theorem test_s12s2_zero : answer (exec (.s12s2 0x00) State.reset) = some (.set2Code 0x00) := by decide
theorem test_s12s2_A_ref : answer (exec (.s12s2 0x1E) refState) = some (.set2Code 0x1C) := by decide +kernel

/-! ## One step from presented inputs (section 3, and the REF rows of section 2.6) -/

theorem test_step_left_released_set1 :
    packed (step (State.reset.present 0xCB true)) = some (0xE0F04B, 3, [0xE0, 0xF0, 0x4B]) := by decide
theorem test_step_space_set2_ref : packed (step (refState.present 0x39 false)) = some (0x000029, 1, [0x29]) := by decide +kernel
theorem test_step_tap :
    answer (step { State.reset with call := .getKey, code := 0xFF }) = some (.key 0x7F) := by decide

/-! ## The hypotheses of the statements can be met

One theorem per statement that has hypotheses; the clauses are taken at the ends of their ranges. -/

theorem refState_fixedEntries : FixedEntries refState.tableT1 := by unfold FixedEntries; decide +kernel
theorem refState_zeroRange : ZeroRange refState.tableT1 := by unfold ZeroRange; decide +kernel
theorem refState_zeroAtZero : ZeroAtZero refState.tableT2 := by unfold ZeroAtZero; decide +kernel
theorem refState_sevenBit : SevenBit refState.tableT1 := by unfold SevenBit; decide +kernel

theorem witness_DecodeOfEncodeIsIdentity : (Instr.xlatS2Br 0x7F).wf = true ∧ Instr.upS1Mk.wf = true := by decide
theorem witness_EncodeOfDecodeIsIdentity :
    decode .toPS2 [0x48, 0x01] = .ok .upS1Mk ∧ decode .ps2Set1ToSet2 [0x7F] = .ok (.s12s2 0x7F) := by decide
theorem witness_EveryOperationWordIsExactlyOneOperation :
    (Instr.xlatS1Mk 0x1E).wf = true ∧ encode (.xlatS1Mk 0x1E) = (.toPS2, opWordBytes 0x11E) := by decide
theorem witness_NoInputPairIsIllegal :
    isExtFlag (keyOf 0xC5) = false ∧ refState.tableT1 (keyOf 0xC5) = 0x00 ∧ ZeroAtZero refState.tableT2 :=
  ⟨by decide +kernel, by decide +kernel, refState_zeroAtZero⟩
theorem witness_StepRunsTheDecodedOperation : decode State.reset.call State.reset.fetchBytes = .ok (.xlatS2Mk 0x00) := by
  decide
theorem witness_TableWordsRunAsDecoded : 511 < 2 ^ 9 ∧ 255 < 2 ^ 8 ∧ 127 < 2 ^ 7 := by decide
theorem witness_OperationsChangeTheAnswerAlone :
    exec (.isBreak 0x80) State.reset = .next (State.reset.withResult (.isBreak true)) := rfl
theorem witness_EvaluationsDependOnInputsAndTablesOnly :
    State.reset ≠ State.reset.withResult (.key 0x01) ∧ State.reset.call = (State.reset.withResult (.key 0x01)).call ∧
    ∀ (sp : Space) (i : KeyCode), State.reset.memRead sp i = (State.reset.withResult (.key 0x01)).memRead sp i :=
  ⟨by decide, rfl, fun sp _ => by cases sp <;> rfl⟩
theorem witness_RepeatedEvaluationGivesTheSame : ∃ t, step (State.reset.present 0x48 true) = .next t := ⟨_, rfl⟩
theorem witness_StepKeepsTheInvariant : ∃ s t : State, s.Inv ∧ step s = .next t ∧ t ≠ s := by
  refine ⟨State.reset, _, ⟨by decide, by decide, ⟨⟨by decide, by decide⟩, fun k low high => ?_, rfl, fun k => ?_⟩, trivial⟩,
    rfl, by decide⟩
  · show t1Unlisted k.toNat = 0x00
    rw [t1Unlisted, if_neg (by omega), if_neg (by omega), if_pos ⟨low, high⟩]
  · show (t1Unlisted k.toNat).getLsbD 7 = false
    have masked : ∀ b : Byte, (b &&& 0x7F).getLsbD 7 = false := by decide
    unfold t1Unlisted
    split <;> [rfl; split <;> [rfl; split <;> [rfl; exact masked _]]]
theorem witness_FirstEvaluationIsLikeEveryOther : ∃ u out, runInputs State.reset [(0xC8, false), (0x1E, true)] = .next (u, out) :=
  ⟨_, _, rfl⟩
theorem witness_TapsIgnoreSetAndTables : ∃ i : Instr, i = .getKey 0x80 ∨ i = .isBreak 0x80 ∨ i = .isMake 0x80 := ⟨_, .inl rfl⟩
theorem witness_St2s1AnswersTheT1Entry :
    FixedEntries refState.tableT1 ∧ ZeroRange refState.tableT1 ∧
    0x45 ≤ (0x45#7).toNat ∧ (0x45#7).toNat ≤ 0x64 ∧ 0x45 ≤ (0x64#7).toNat ∧ (0x64#7).toNat ≤ 0x64 :=
  ⟨refState_fixedEntries, refState_zeroRange, by decide +kernel⟩
theorem witness_S12s2AnswersTheT2Entry : ZeroAtZero refState.tableT2 ∧ (0x80#8).getLsbD 7 = true :=
  ⟨refState_zeroAtZero, by decide +kernel⟩
theorem witness_XlatS1MkTranslates :
    KeyCode.isArrow 0x1E = false ∧ KeyCode.isArrow 0x00 = false ∧ FixedEntries refState.tableT1 ∧
    KeyCode.isArrow 0x64 = false ∧ ZeroRange refState.tableT1 ∧ refState.tableT1 0x64 = 0x00 :=
  ⟨by decide +kernel, by decide +kernel, refState_fixedEntries, by decide +kernel, refState_zeroRange, by decide +kernel⟩
theorem witness_XlatS1BrTranslates :
    KeyCode.isArrow 0x1E = false ∧ KeyCode.isArrow 0x00 = false ∧ FixedEntries refState.tableT1 ∧
    KeyCode.isArrow 0x45 = false ∧ ZeroRange refState.tableT1 ∧ refState.tableT1 0x45 = 0x00 :=
  ⟨by decide +kernel, by decide +kernel, refState_fixedEntries, by decide +kernel, refState_zeroRange, by decide +kernel⟩
theorem witness_XlatS2MkTranslates :
    KeyCode.isArrow 0x1E = false ∧ FixedEntries refState.tableT1 ∧ KeyCode.isArrow 0x37 = false ∧
    refState.tableT1 0x37 = 0x00 ∧ ZeroAtZero refState.tableT2 ∧
    refState.tableT2 ((refState.tableT1 0x37).extractLsb' 0 7) = 0x00 :=
  ⟨by decide +kernel, refState_fixedEntries, by decide +kernel, by decide +kernel, refState_zeroAtZero, by decide +kernel⟩
theorem witness_XlatS2BrTranslates :
    KeyCode.isArrow 0x1E = false ∧ FixedEntries refState.tableT1 ∧ KeyCode.isArrow 0x7F = false ∧
    refState.tableT1 0x7F = 0x00 ∧ ZeroAtZero refState.tableT2 ∧
    refState.tableT2 ((refState.tableT1 0x7F).extractLsb' 0 7) = 0x00 :=
  ⟨by decide +kernel, refState_fixedEntries, by decide +kernel, by decide +kernel, refState_zeroAtZero, by decide +kernel⟩
theorem witness_ArrowsIgnoreTheTables :
    isExtFlag (keyOf 0x48) = true ∧ isExtFlag (keyOf 0xCD) = true ∧ oddState.tableT1 0x48 ≠ refState.tableT1 0x48 := by decide +kernel
theorem witness_RomStageReadsBothTables : SevenBit refState.tableT1 := refState_sevenBit
theorem witness_ArrowPayloadOverridesTheTables :
    [0x48, 0xD0, 0x4B, 0xCD].map keyOf = [0x48, 0x50, 0x4B, 0x4D] ∧ isExtFlag (keyOf 0x47) = false := by decide
theorem witness_LayoutsAndPrefixes :
    (isExtFlag (keyOf 0x1E) = false ∧ (0x1E#8).getLsbD 7 = false) ∧ (isExtFlag (keyOf 0x9E) = false ∧ (0x9E#8).getLsbD 7 = true) ∧
    (isExtFlag (keyOf 0x48) = true ∧ (0x48#8).getLsbD 7 = false) ∧ (isExtFlag (keyOf 0xC8) = true ∧ (0xC8#8).getLsbD 7 = true) := by
  decide
theorem witness_SlotsAreTheBytesInSendingOrder :
    ((packed (step (State.reset.present 0x1E true))).map (·.2.1) = some 1) ∧
    ((packed (step (State.reset.present 0x9E true))).map (·.2.1) = some 2) ∧
    ((packed (step (State.reset.present 0xC8 true))).map (·.2.1) = some 3) := by decide
theorem witness_UnmappedKeyIsFramedLikeAnyOther :
    isExtFlag (keyOf 0x80) = false ∧ refState.tableT1 (keyOf 0x80) = 0x00 ∧ ZeroAtZero refState.tableT2 ∧
    (0x80#8).getLsbD 7 = true ∧ (0x00#8).getLsbD 7 = false :=
  ⟨by decide +kernel, by decide +kernel, refState_zeroAtZero, by decide +kernel, by decide +kernel⟩
theorem witness_ZeroRangeKeysGiveZero :
    ZeroRange refState.tableT1 ∧ ZeroAtZero refState.tableT2 ∧
    (0x45 ≤ (keyOf 0x45).toNat ∧ (keyOf 0x45).toNat ≤ 0x64 ∧ isExtFlag (keyOf 0x45) = false) ∧
    (0x45 ≤ (keyOf 0xE4).toNat ∧ (keyOf 0xE4).toNat ≤ 0x64 ∧ isExtFlag (keyOf 0xE4) = false) :=
  ⟨refState_zeroRange, refState_zeroAtZero, by decide +kernel, by decide +kernel⟩
theorem witness_PrecedenceOfConditions :
    isExtFlag (keyOf 0xC8) = true ∧ (0xC8#8).getLsbD 7 = true ∧ isExtFlag (keyOf 0x80) = false ∧ (0x80#8).getLsbD 7 = true ∧
    packed (step (refState.present 0x80 true)) = some (0x00F000, 2, [0xF0, 0x00]) := by decide +kernel

end Sys2Proof.Machine.Tests
end

section
/-! SUPPORT. What the presented bytes decode to (30_encoding.md section 3), and what an evaluation reads (R2, R9, R18). -/

namespace Sys2Proof

/-- The decoder gives operations only: a general operation never gets an arrow key (R38, R83). -/
theorem decodeOpWord_wf (w : OpWord) : (decodeOpWord w).wf = true := by
  rcases arrow_cases (opWordKey w) with h | h | h | h | h
  · rw [decodeOpWord_up w h]; cases opWordSet1 w <;> cases opWordBreak w <;> rfl
  · rw [decodeOpWord_down w h]; cases opWordSet1 w <;> cases opWordBreak w <;> rfl
  · rw [decodeOpWord_left w h]; cases opWordSet1 w <;> cases opWordBreak w <;> rfl
  · rw [decodeOpWord_right w h]; cases opWordSet1 w <;> cases opWordBreak w <;> rfl
  · rw [decodeOpWord_general w h]
    cases opWordSet1 w <;> cases opWordBreak w <;> simp [decodeGeneral, Instr.wf, h]

end Sys2Proof

namespace Sys2Proof.Machine

/-! ## The presented operation -/

/-- The masked byte is the KeyCode below a zero bit (R45). -/
theorem getKeyByte_eq_append_keyOf (code : Byte) : getKeyByte code = 0#1 ++ keyOf code := by
  revert code; decide

theorem operation_wf (s : State) : s.operation.wf = true := by
  obtain ⟨t1, t2, call, code, f, r⟩ := s
  cases call with
  | toPS2 => exact decodeOpWord_wf _
  | getKey | isBreak | isMake | stToPS2Set1 | ps2Set1ToSet2 => rfl

/-- The bytes and the operation that a state presents agree. -/
theorem decode_fetchBytes (s : State) : decode s.call s.fetchBytes = .ok s.operation := by
  obtain ⟨t1, t2, call, code, f, r⟩ := s
  have index (make : KeyCode → Instr) : decodeRom make [getKeyByte code] = .ok (make (keyOf code)) := by
    rw [getKeyByte_eq_append_keyOf, decodeRom_index]
  cases call with
  | toPS2 => exact decode_opWordBytes _
  | getKey | isBreak | isMake => rfl
  | stToPS2Set1 | ps2Set1ToSet2 => exact index _

theorem operation_eq_of_inputs_eq {s s' : State} (call : s.call = s'.call) (code : s.code = s'.code)
    (set1 : s.useSet1 = s'.useSet1) : s.operation = s'.operation := by
  simp only [State.operation, call, code, set1]

/-! ## What an evaluation reads -/

/-- A translation reads the state through its table cells alone. -/
theorem translate_eq_of_memRead_eq {s s' : State} (reads : ∀ sp i, s.memRead sp i = s'.memRead sp i)
    (set1 brk : Bool) (k : KeyCode) (arrow : Option Byte) :
    ∃ r, s.translate set1 brk k arrow = s.withResult r ∧ s'.translate set1 brk k arrow = s'.withResult r :=
  ⟨_, rfl, by simp only [State.translate, reads]⟩

/-- An operation reads the state through its table cells alone: where they agree, it gives one and the same answer. -/
theorem exec_eq_of_memRead_eq {s s' : State} (reads : ∀ sp i, s.memRead sp i = s'.memRead sp i) (i : Instr) :
    ∃ r, exec i s = .next (s.withResult r) ∧ exec i s' = .next (s'.withResult r) := by
  cases i with
  | getKey | isBreak | isMake => exact ⟨_, rfl, rfl⟩
  | st2s1 a => exact ⟨.set1Code (s.memRead .t1 a), rfl, by rw [reads]; rfl⟩
  | s12s2 a => exact ⟨.set2Code (s.memRead .t2 a), rfl, by rw [reads]; rfl⟩
  | _ =>
    obtain ⟨r, eq, eq'⟩ := translate_eq_of_memRead_eq reads _ _ _ _
    exact ⟨r, congrArg Host.Outcome.next eq, congrArg Host.Outcome.next eq'⟩

/-- A step does not read the answer before it (R10). -/
theorem step_withResult (s : State) (r : Result) : step (s.withResult r) = step s :=
  exec_withResult s.operation s r

/-! ## The statements on scope -/

/-- Settles O13: equal inputs select one operation, and an operation reads nothing but table cells. -/
theorem evaluationsDependOnInputsAndTablesOnly : Obligations.EvaluationsDependOnInputsAndTablesOnly := by
  intro s s' call code set1 reads
  rw [step_eq, step_eq, operation_eq_of_inputs_eq call code set1]
  exact exec_eq_of_memRead_eq reads s'.operation

/-- Settles O14: the next state differs in the answer alone, which the next step does not read. -/
theorem repeatedEvaluationGivesTheSame : Obligations.RepeatedEvaluationGivesTheSame := by
  intro s t evaluated
  obtain ⟨r, rfl⟩ := exec_next evaluated
  rw [step_withResult, evaluated]

/-- Settles O7: the presented bytes decode to the presented operation, which is the one a step runs. -/
theorem stepRunsTheDecodedOperation : Obligations.StepRunsTheDecodedOperation := by
  intro s
  refine ⟨⟨s.operation, operation_wf s, decode_fetchBytes s⟩, fun i decoded => ?_⟩
  have same : s.operation = i := Except.ok.inj ((decode_fetchBytes s).symm.trans decoded)
  rw [step_eq, same]

end Sys2Proof.Machine
end

section
/-! SUPPORT. What a translation presents, in the terms of R75 (44_output_sequencer.md), and what a run and a session keep
(10_state.md). -/

namespace Sys2Proof.Machine

/-! ## A translation is the complete function -/

/-- The hard-coded payloads of the operations are the `arrow` of R75 (R64). -/
theorem arrowPayload_eq_arrowCode (f : Bool) (k : KeyCode) :
    arrowPayload f k = if isExtFlag k then some (arrowCode f k) else none := by
  revert k; cases f <;> decide

/-- An arrow key takes its hard-coded payload, every other key the base (R65). -/
theorem arrowPayload_getD (f : Bool) (k : KeyCode) (base : Byte) :
    (arrowPayload f k).getD base = if isExtFlag k then arrowCode f k else base := by
  rw [arrowPayload_eq_arrowCode]
  split <;> rfl

/-- Every presented pair is evaluated as R75's function on the tables of the state. -/
theorem evaluates_toPS2 (s : State) (code : Byte) (f : Bool) :
    Evaluates s code f (s.toPS2 code f).1 (s.toPS2 code f).2 := by
  simp only [Evaluates, step_present, State.translate, layout_ports_eq_accumulated, arrowPayload_isSome, arrowPayload_getD]
  rw [arrowPayload_eq_arrowCode]
  rfl

/-! ## The ports that stand beside the packed result (R19) -/

@[simp] theorem toPS2_key (s : State) (code : Byte) (f : Bool) : (s.toPS2 code f).2.key = keyOf code := rfl
@[simp] theorem toPS2_isBreak (s : State) (code : Byte) (f : Bool) : (s.toPS2 code f).2.isBreak = code.getLsbD 7 := rfl
@[simp] theorem toPS2_isMake (s : State) (code : Byte) (f : Bool) : (s.toPS2 code f).2.isMake = !code.getLsbD 7 := rfl

/-- The mask of R46 tests bit 7. -/
theorem isBreakFlag_eq_getLsbD (code : Byte) : isBreakFlag code = code.getLsbD 7 := by
  revert code; decide

/-! ## Runs -/

/-- A run whose first step answers goes on from the next state. -/
theorem run_succ_of_next {M : Host.Core} {s t : M.State} (stepped : M.step s = .next t) (n : Nat) :
    M.run (n + 1) s = M.run n t := by
  simp only [Host.Core.run, stepped]

/-- A run of any length answers, and changes the answer alone. -/
theorem run_answers (n : Nat) (s : State) : ∃ r, Host.Core.run core n s = .next (s.withResult r) := by
  induction n generalizing s with
  | zero => exact ⟨s.result, rfl⟩
  | succ n ih =>
    obtain ⟨r, stepped⟩ := step_answers s
    obtain ⟨r', ran⟩ := ih (s.withResult r)
    exact ⟨r', (run_succ_of_next (M := core) stepped n).trans ran⟩

/-! ## Sessions (D11) -/

@[simp] theorem withResult_toPS2 (s : State) (r : Result) : (s.withResult r).toPS2 = s.toPS2 := rfl
@[simp] theorem present_toPS2 (s : State) (code : Byte) (f : Bool) : (s.present code f).toPS2 = s.toPS2 := rfl

/-- A session whose first pair is evaluated gives that pair's sequence and then the rest of the session. -/
theorem runInputs_cons_of_evaluates {s u : State} {code : Byte} {f : Bool} {w : Wires} {o : Ports}
    {rest : List (Byte × Bool)} {out : List Byte} (first : Evaluates s code f w o)
    (later : runInputs ((s.present code f).withResult (.translated w o)) rest = .next (u, out)) :
    runInputs s ((code, f) :: rest) = .next (u, o.seq ++ out) := by
  unfold Evaluates at first
  simp only [runInputs, first, later]
  rfl

/-! ## The statements on the state -/

/-- Settles O10: a run differs from its start in the answer alone, so every field and every cell beside it is kept. -/
theorem runsNeverStopAndKeepTheTables : Obligations.RunsNeverStopAndKeepTheTables := by
  intro n s
  obtain ⟨r, ran⟩ := run_answers n s
  exact ⟨s.withResult r, ran, rfl, rfl, withResult_memRead s r, rfl, rfl, rfl⟩

/-- Settles O48: the ports are those of R75, whose key and flags are the fields of the byte that the taps read. -/
theorem helperOutputsAccompanyTranslation : Obligations.HelperOutputsAccompanyTranslation := by
  intro s code f
  refine ⟨_, _, evaluates_toPS2 s code f, ?_, ?_, ?_⟩
  · rw [toPS2_key, ← getKeyByte_eq_append_keyOf]; rfl
  · rw [toPS2_isBreak, ← isBreakFlag_eq_getLsbD]; rfl
  · rw [toPS2_isMake, ← isBreakFlag_eq_getLsbD]; rfl

/-- Settles O49, by induction on the list: each evaluation is R75's function and leaves the tables to the next one. -/
theorem sessionIsTheConcatenationOfTranslations : Obligations.SessionIsTheConcatenationOfTranslations := by
  intro l
  induction l with
  | nil => exact fun s => ⟨s, rfl, rfl, rfl⟩
  | cons p rest ih =>
    intro s
    obtain ⟨code, f⟩ := p
    obtain ⟨u, ran, t1, t2⟩ := ih ((s.present code f).withResult (.translated (s.toPS2 code f).1 (s.toPS2 code f).2))
    rw [withResult_toPS2, present_toPS2] at ran
    exact ⟨u, runInputs_cons_of_evaluates (evaluates_toPS2 s code f) ran, t1, t2⟩

end Sys2Proof.Machine
end

section
/-! SUPPORT. The payload and the layout of a translation (R40, R41, R60, R62, R65), and the statements on encoding. -/

namespace Sys2Proof.Machine

/-! ## The payload and the layout of a translation -/

/-- The payload is the base payload of the set for every key that is no arrow (R60, R65). -/
theorem toPS2_payload_of_not_ext (s : State) (code : Byte) (f : Bool) (plain : isExtFlag (keyOf code) = false) :
    (s.toPS2 code f).1.payload =
      if f then s.tableT1 (keyOf code) else s.tableT2 ((s.tableT1 (keyOf code)).extractLsb' 0 7) :=
  if_neg (Bool.eq_false_iff.mp plain)

/-- An unmapped key has payload 0x00 in either set: Set 1 reads the zero of T1, Set 2 the zero at index 0 of T2
(R56, R62). -/
theorem toPS2_payload_of_unmapped {s : State} {code : Byte} (f : Bool) (plain : isExtFlag (keyOf code) = false)
    (unmapped : s.tableT1 (keyOf code) = 0x00) (zero : ZeroAtZero s.tableT2) : (s.toPS2 code f).1.payload = 0x00 := by
  rw [toPS2_payload_of_not_ext s code f plain, unmapped]
  cases f with
  | true => rfl
  | false => exact zero

/-- The ports are those of the layout that the arrow flag and the break flag choose, around the payload (R40, R41). -/
theorem toPS2_ports (s : State) (code : Byte) (f : Bool) :
    (s.toPS2 code f).2 =
      (Layout.of (isExtFlag (keyOf code)) (code.getLsbD 7)).ports (keyOf code) (code.getLsbD 7)
        (s.toPS2 code f).1.payload :=
  (layout_ports_eq_accumulated _ _ _ _).symm

/-! ## The statements on encoding -/

/-- Settles O6: the presented bytes decode to the presented operation, and the step is R75's function, whose payload is
the table entry of a key that is no arrow. -/
theorem noInputPairIsIllegal : Obligations.NoInputPairIsIllegal := by
  intro s code f
  have decoded := decode_fetchBytes (s.present code f)
  rw [present_call] at decoded
  exact ⟨⟨_, operation_wf _, decoded⟩, _, _, evaluates_toPS2 s code f, toPS2_payload_of_unmapped f⟩

/-- Settles O41: the two flags choose one of the four layouts, and each layout spells out its bytes. -/
theorem fourLayouts : Obligations.FourLayouts := by
  intro s code f
  refine ⟨_, _, evaluates_toPS2 s code f, ?_⟩
  rw [toPS2_ports]
  cases isExtFlag (keyOf code) <;> cases code.getLsbD 7
  · exact .inl ⟨rfl, rfl, rfl, rfl, rfl⟩
  · exact .inr (.inl ⟨rfl, rfl, rfl, rfl, rfl⟩)
  · exact .inr (.inr (.inl ⟨rfl, rfl, rfl, rfl, rfl⟩))
  · exact .inr (.inr (.inr ⟨rfl, rfl, rfl, rfl, rfl⟩))

end Sys2Proof.Machine
end

section
/-! SUPPORT. The key-code extractor (40_key_extractor.md): what each tap answers, the laws of the break mask and of the
key mask, and the statements on the taps. -/

namespace Sys2Proof.Machine

/-! ## What each tap answers (R87 to R89) -/

theorem exec_getKey (code : Byte) (s : State) :
    exec (.getKey code) s = .next (s.withResult (.key (getKeyByte code))) := rfl

theorem exec_isBreak (code : Byte) (s : State) :
    exec (.isBreak code) s = .next (s.withResult (.isBreak (code.getLsbD 7))) := by
  rw [← isBreakFlag_eq_getLsbD]; rfl

theorem exec_isMake (code : Byte) (s : State) :
    exec (.isMake code) s = .next (s.withResult (.isMake (!code.getLsbD 7))) := by
  rw [← isBreakFlag_eq_getLsbD]; rfl

/-! ## The laws of the masks (R48) -/

/-- The key mask clears the break bit. -/
@[simp] theorem getLsbD_seven_getKeyByte (code : Byte) : (getKeyByte code).getLsbD 7 = false := by
  rw [getKeyByte, BitVec.getLsbD_and]; exact Bool.and_false _

/-- Setting the break bit does not change the key: the two masks share no bit. -/
@[simp] theorem getKeyByte_or_breakBit (code : Byte) : getKeyByte (code ||| 0x80) = getKeyByte code := by
  calc (code ||| 0x80) &&& 0x7F = code &&& 0x7F ||| 0x80 &&& 0x7F := BitVec.and_or_distrib_right
    _ = code &&& 0x7F := BitVec.or_zero

@[simp] theorem getKeyByte_getKeyByte (code : Byte) : getKeyByte (getKeyByte code) = getKeyByte code := by
  rw [getKeyByte, getKeyByte, BitVec.and_assoc, BitVec.and_self]

/-- Bit 7 above bits 6 to 0 is the whole byte. -/
theorem getLsbD_seven_append_keyOf (code : Byte) : (BitVec.ofBool (code.getLsbD 7) ++ keyOf code : Byte) = code := by
  revert code; decide

/-! ## The statements on the key-code extractor -/

/-- Settles O20: GETKEY answers the masked byte, which keeps bits 6 to 0 and drops the break bit. -/
theorem getKeyAnswersTheKeyCode : Obligations.GetKeyAnswersTheKeyCode := by
  intro s code
  refine ⟨exec_getKey code s, getKeyByte_eq_append_keyOf code, getLsbD_seven_getKeyByte code, ?_⟩
  rw [exec_getKey, exec_getKey, getKeyByte_or_breakBit]

/-- Settles O21: the mask of R46 tests bit 7. -/
theorem isBreakAnswersBitSeven : Obligations.IsBreakAnswersBitSeven := by
  intro s code
  refine ⟨exec_isBreak code s, ?_⟩
  rw [← isBreakFlag_eq_getLsbD]
  exact (decide_not (p := code &&& 0x80#8 = 0#8)).symm

/-- Settles O22: both taps read bit 7, ISMAKE negated. -/
theorem isMakeAnswersTheOpposite : Obligations.IsMakeAnswersTheOpposite :=
  fun s code => ⟨exec_isMake code s, code.getLsbD 7, exec_isBreak code s, exec_isMake code s⟩

/-- Settles O23: the break flag is bit 7, the KeyCode the seven bits that the key mask keeps. -/
theorem byteIsItsFlagAndKey : Obligations.ByteIsItsFlagAndKey := by
  intro code
  refine ⟨?_, (Bool.not_not _).symm, (getKeyByte_or_breakBit code).symm, getKeyByte_getKeyByte code, ?_⟩
  · rw [isBreakFlag_eq_getLsbD, getLsbD_seven_append_keyOf]
  · rw [isBreakFlag_eq_getLsbD, getLsbD_seven_getKeyByte]

/-- Settles O24: each tap's answer is written in terms of its byte alone. -/
theorem tapsIgnoreSetAndTables : Obligations.TapsIgnoreSetAndTables := by
  rintro s s' code i (rfl | rfl | rfl)
  · exact ⟨_, exec_getKey code s, exec_getKey code s'⟩
  · exact ⟨_, exec_isBreak code s, exec_isBreak code s'⟩
  · exact ⟨_, exec_isMake code s, exec_isMake code s'⟩

end Sys2Proof.Machine
end

section
/-! SUPPORT. The table lookup (41_rom_tables.md): what a translation reads of each table, what the two table reads
answer, and the statements on the tables. -/

namespace Sys2Proof.Machine

/-! ## The lookup of a translation (R59 to R61) -/

@[simp] theorem toPS2_t1 (s : State) (code : Byte) (f : Bool) :
    (s.toPS2 code f).1.t1 = s.tableT1 (keyOf code) := rfl

/-- Port B is read at the low seven bits of what port A reads (R59). -/
@[simp] theorem toPS2_t2 (s : State) (code : Byte) (f : Bool) :
    (s.toPS2 code f).1.t2 = s.tableT2 ((s.toPS2 code f).1.t1.extractLsb' 0 7) := rfl

@[simp] theorem toPS2_base (s : State) (code : Byte) (f : Bool) :
    (s.toPS2 code f).1.base = if f then (s.toPS2 code f).1.t1 else (s.toPS2 code f).1.t2 := rfl

/-- A byte with bit 7 clear is its low seven bits (R57): nothing is lost where it is an index of T2. -/
theorem zero_append_keyOf_of_bit_seven_clear {b : Byte} (clear : b.getLsbD 7 = false) : (0#1 ++ keyOf b : Byte) = b := by
  have fields := getLsbD_seven_append_keyOf b
  rwa [clear] at fields

/-- A key of the zero range that is no arrow gives the layout of the break flag around a zero payload (R54, R56). -/
theorem toPS2_ports_of_zeroRange {s : State} {code : Byte} (f : Bool) (zeros : ZeroRange s.tableT1)
    (zero : ZeroAtZero s.tableT2) (low : 0x45 ≤ (keyOf code).toNat) (high : (keyOf code).toNat ≤ 0x64)
    (plain : isExtFlag (keyOf code) = false) :
    (s.toPS2 code f).2 =
      (Layout.of false (code.getLsbD 7)).ports (keyOf code) (code.getLsbD 7) 0x00 := by
  rw [toPS2_ports, plain, toPS2_payload_of_unmapped f plain (zeros _ low high) zero]

/-! ## What each table read answers (R90, R91) -/

theorem exec_st2s1 (i : KeyCode) (s : State) :
    exec (.st2s1 i) s = .next (s.withResult (.set1Code (s.memRead .t1 i))) := rfl

theorem exec_s12s2 (i : KeyCode) (s : State) :
    exec (.s12s2 i) s = .next (s.withResult (.set2Code (s.memRead .t2 i))) := rfl

/-- A byte with bit 7 set is no table index (R91; log 10). -/
theorem decodeRom_of_bit_seven_set (make : KeyCode → Instr) {b : Byte} (high : b.getLsbD 7 = true) :
    decodeRom make [b] = .error .notSevenBits :=
  if_pos high

/-! ## The statements on the tables -/

/-- Settles O36: the step is R75's function, whose wires are the two reads and the choice between them; a T1 value with
bit 7 clear is its own index into T2. -/
theorem romStageReadsBothTables : Obligations.RomStageReadsBothTables := by
  intro s code f
  refine ⟨_, _, evaluates_toPS2 s code f, toPS2_t1 s code f, toPS2_t2 s code f, ?_, ?_, fun sevenBit => ?_⟩
  · rintro rfl; exact toPS2_base s code true
  · rintro rfl; exact toPS2_base s code false
  · exact zero_append_keyOf_of_bit_seven_clear (sevenBit (keyOf code))

/-- Settles O46: the payload is zero in either set, so the result is the layout of the break flag around it. -/
theorem zeroRangeKeysGiveZero : Obligations.ZeroRangeKeysGiveZero := by
  intro s code f zeros zero low high plain
  refine ⟨_, _, evaluates_toPS2 s code f, ?_⟩
  rw [toPS2_ports_of_zeroRange f zeros zero low high plain]
  cases code.getLsbD 7 <;> rfl

/-- Settles O25: the answer is the cell of T1, whose values R53 and R54 give, and which a translation reads at the key. -/
theorem st2s1AnswersTheT1Entry : Obligations.St2s1AnswersTheT1Entry := by
  intro s i
  refine ⟨exec_st2s1 i s, fun ⟨atA, atZero⟩ => ⟨?_, ?_⟩, fun zeros => zeros i, fun code f => ?_⟩
  · rintro rfl; exact atZero
  · rintro rfl; exact atA
  · exact ⟨_, _, evaluates_toPS2 s code f, toPS2_t1 s code f⟩

/-- Settles O26: the answer is the cell of T2, which a translation reads at the low seven bits of its T1 value. -/
theorem s12s2AnswersTheT2Entry : Obligations.S12s2AnswersTheT2Entry := by
  intro s i
  refine ⟨exec_s12s2 i s, fun zero => ?_, fun _ high => decodeRom_of_bit_seven_set .s12s2 high, fun code f => ?_⟩
  · rintro rfl; exact zero
  · exact ⟨_, _, evaluates_toPS2 s code f, toPS2_t2 s code f⟩

end Sys2Proof.Machine
end

section
/-! SUPPORT. The extended-key logic (42_extended_key.md): the arrow flag, the payload that overrides the base, the bytes
of the packed result and of the sequence by the two flags, and the statements on arrow keys. -/

namespace Sys2Proof.Machine

/-! ## The arrow flag and the override (R63 to R65) -/

theorem isExtFlag_eq_true_iff (k : KeyCode) : isExtFlag k = true ↔ k = 0x48 ∨ k = 0x50 ∨ k = 0x4B ∨ k = 0x4D := by
  simp only [isExtFlag, Bool.or_eq_true, beq_iff_eq, or_assoc]

@[simp] theorem toPS2_isExt (s : State) (code : Byte) (f : Bool) :
    (s.toPS2 code f).1.isExt = isExtFlag (keyOf code) := rfl

/-- An arrow key takes its hard-coded payload, whatever the tables hold. -/
theorem toPS2_payload_of_ext (s : State) {code : Byte} {k : KeyCode} (f : Bool) (ext : isExtFlag k = true)
    (key : keyOf code = k) : (s.toPS2 code f).1.payload = arrowCode f k := by
  subst key
  exact if_pos ext

/-- The payload of an arrow key is what the arrow wire shows. -/
theorem toPS2_arrow_of_ext (s : State) {code : Byte} (f : Bool) (ext : isExtFlag (keyOf code) = true) :
    (s.toPS2 code f).1.arrow = some (s.toPS2 code f).1.payload := by
  rw [toPS2_payload_of_ext s f ext rfl]
  exact if_pos ext

/-! ## The bytes by the two flags (R66, R67) -/

/-- In sending order 0xE0 comes first, then 0xF0, then the payload, each of the two bytes by its flag. -/
theorem layout_seq (key : KeyCode) (isExt isBreak brk : Bool) (payload : Byte) :
    ((Layout.of isExt isBreak).ports key brk payload).seq =
      (if isExt then [0xE0#8] else []) ++ (if isBreak then [0xF0#8] else []) ++ [payload] := by
  cases isExt <;> cases isBreak <;> rfl

theorem toPS2_seq (s : State) (code : Byte) (f : Bool) :
    (s.toPS2 code f).2.seq =
      (if isExtFlag (keyOf code) then [0xE0#8] else []) ++ (if code.getLsbD 7 then [0xF0#8] else []) ++
        [(s.toPS2 code f).1.payload] := by
  rw [toPS2_ports, layout_seq]

/-- Bits 15 to 8 hold 0xF0 on break, and on make the 0xE0 of an arrow key. -/
theorem toPS2_middle (s : State) (code : Byte) (f : Bool) :
    (s.toPS2 code f).2.res.extractLsb' 8 8 =
      if code.getLsbD 7 then 0xF0#8 else if isExtFlag (keyOf code) then 0xE0#8 else 0x00#8 := by
  rw [toPS2_ports]
  exact layout_middle _ _ _

/-- Bits 23 to 16 hold the 0xE0 of an arrow key on break. -/
theorem toPS2_top (s : State) (code : Byte) (f : Bool) :
    (s.toPS2 code f).2.res.extractLsb' 16 8 = if isExtFlag (keyOf code) && code.getLsbD 7 then 0xE0#8 else 0x00#8 := by
  rw [toPS2_ports]
  exact layout_top _ _ _

/-! ## The statements on arrow keys -/

/-- Settles O35: the payload of an arrow key is a constant, and the ports are a function of the byte and the payload. -/
theorem arrowsIgnoreTheTables : Obligations.ArrowsIgnoreTheTables := by
  intro s s' code f ext
  have payload : (s.toPS2 code f).1.payload = (s'.toPS2 code f).1.payload := by
    rw [toPS2_payload_of_ext s f ext rfl, toPS2_payload_of_ext s' f ext rfl]
  have ports : (s'.toPS2 code f).2 = (s.toPS2 code f).2 := by
    rw [toPS2_ports, toPS2_ports, payload]
  exact ⟨_, _, _, evaluates_toPS2 s code f, ports ▸ evaluates_toPS2 s' code f, payload⟩

/-- Settles O37: R75's function compares the key with the four arrows, and the payload is R64's constant for these and the
base for every other key. -/
theorem arrowPayloadOverridesTheTables : Obligations.ArrowPayloadOverridesTheTables := by
  intro s code f
  refine ⟨_, _, evaluates_toPS2 s code f, ?_⟩
  rw [toPS2_isExt]
  refine ⟨isExtFlag_eq_true_iff (keyOf code), ?_, ?_, toPS2_arrow_of_ext s f, fun plain => ?_⟩
  · rintro ext rfl; exact toPS2_payload_of_ext s true ext rfl
  · rintro rfl
    have hardCoded {k : KeyCode} (ext : isExtFlag k = true) := toPS2_payload_of_ext (code := code) s false ext
    exact ⟨hardCoded rfl, hardCoded rfl, hardCoded rfl, hardCoded rfl⟩
  · have payload := toPS2_payload_of_not_ext s code f plain
    refine ⟨payload, ?_, ?_⟩
    · rintro rfl; exact payload
    · rintro rfl; exact payload

/-- Settles O38: the flags of the key and of bit 7 decide every byte above the payload and every byte sent before it. -/
theorem extendedPrefixForArrowsOnly : Obligations.ExtendedPrefixForArrowsOnly := by
  intro s code f
  refine ⟨_, _, evaluates_toPS2 s code f, ?_⟩
  rw [toPS2_seq, toPS2_middle, toPS2_top]
  cases isExtFlag (keyOf code) with
  | true =>
    refine ⟨fun _ => ⟨rfl, fun make => ?_, fun brk => ?_⟩, nofun⟩
    · rw [make]; exact ⟨rfl, rfl, rfl⟩
    · rw [brk]; exact ⟨rfl, rfl, rfl⟩
  | false =>
    refine ⟨nofun, fun _ => ?_⟩
    cases code.getLsbD 7 with
    | false => exact ⟨rfl, by decide, .inl rfl⟩
    | true => exact ⟨rfl, by decide, .inr rfl⟩

end Sys2Proof.Machine
end

section
/-! SUPPORT. The break handler (43_break_handler.md): the make byte and the break byte of a key, what the two share, and
the statements on break. -/

namespace Sys2Proof.Machine

/-! ## The make byte and the break byte of a key -/

@[simp] theorem keyOf_getKeyByte (code : Byte) : keyOf (getKeyByte code) = keyOf code := by
  revert code; decide

@[simp] theorem keyOf_or_breakBit (code : Byte) : keyOf (code ||| 0x80) = keyOf code := by
  revert code; decide

@[simp] theorem getLsbD_seven_or_breakBit (code : Byte) : (code ||| 0x80).getLsbD 7 = true := by
  rw [BitVec.getLsbD_or]; exact Bool.or_true _

/-! ## What the break flag leaves and what it adds (R70, R72) -/

/-- The wires are a function of the key and the set: no stage before the packing sees the break flag. -/
theorem toPS2_wires_of_keyOf_eq (s : State) {code code' : Byte} (f : Bool) (key : keyOf code = keyOf code') :
    (s.toPS2 code f).1 = (s.toPS2 code' f).1 := by
  unfold keyOf at key
  simp only [State.toPS2, toPS2, key]

/-- Without an arrow the accumulation of R75 differs by the OR of the break prefix alone. -/
theorem layout_res_break_eq_or (payload : Byte) :
    (Layout.of false true).res payload = (Layout.of false false).res payload ||| 0x00F000#24 := by
  rw [layout_res_eq_packOr, layout_res_eq_packOr]; rfl

/-! ## The statements on break -/

/-- Settles O39: the break flag alone decides whether 0xF0 stands above the payload; the arrow flag decides what stands
before. -/
theorem breakFramingForBothSets : Obligations.BreakFramingForBothSets := by
  intro s code f
  refine ⟨_, _, evaluates_toPS2 s code f, ?_⟩
  rw [toPS2_middle, toPS2_seq]
  constructor
  · intro brk
    rw [brk]
    refine ⟨rfl, _, List.append_assoc _ _ _, ?_⟩
    cases isExtFlag (keyOf code) with
    | false => exact .inl rfl
    | true => exact .inr rfl
  · intro make
    rw [make]
    cases isExtFlag (keyOf code) with
    | false => exact ⟨by decide, .inl rfl⟩
    | true => exact ⟨by decide, .inr rfl⟩

/-- Settles O40: the two bytes have one key, hence the same wires, and their results are two layouts around one payload. -/
theorem breakLeavesThePayload : Obligations.BreakLeavesThePayload := by
  intro s code f
  have wires : (s.toPS2 (getKeyByte code) f).1 = (s.toPS2 (code ||| 0x80) f).1 :=
    toPS2_wires_of_keyOf_eq s f ((keyOf_getKeyByte code).trans (keyOf_or_breakBit code).symm)
  refine ⟨_, _, _, _, evaluates_toPS2 s (getKeyByte code) f, evaluates_toPS2 s (code ||| 0x80) f,
    congrArg Wires.payload wires, fun plain => ?_⟩
  rw [toPS2_ports, toPS2_ports, wires, keyOf_getKeyByte, keyOf_or_breakBit, getLsbD_seven_getKeyByte,
    getLsbD_seven_or_breakBit, plain]
  exact layout_res_break_eq_or _

end Sys2Proof.Machine
end

section
/-! SUPPORT. The output sequencer (44_output_sequencer.md): the packed result, the length and the slots of a translation,
what a byte list packs to, and the statements on the sequencer. -/

namespace Sys2Proof.Machine

/-! ## The packed result and the length (R76, R77) -/

/-- Bits 7 to 0 hold the payload. -/
theorem toPS2_lowest (s : State) (code : Byte) (f : Bool) :
    (s.toPS2 code f).2.res.extractLsb' 0 8 = (s.toPS2 code f).1.payload := by
  rw [toPS2_ports]
  exact layout_lowest _ _

@[simp] theorem toPS2_len (s : State) (code : Byte) (f : Bool) :
    (s.toPS2 code f).2.len = lengthOf (isExtFlag (keyOf code)) (code.getLsbD 7) := rfl

/-- The sum of R77 does not wrap in the two bits of `len`. -/
theorem lengthOf_toNat (isExt isBreak : Bool) : (lengthOf isExt isBreak).toNat = 1 + isBreak.toNat + isExt.toNat := by
  cases isExt <;> cases isBreak <;> rfl

theorem lengthOf_cases (isExt isBreak : Bool) :
    lengthOf isExt isBreak = 1 ∨ lengthOf isExt isBreak = 2 ∨ lengthOf isExt isBreak = 3 := by
  cases isExt <;> cases isBreak <;> decide

/-- The three slots hold every length that the two bits of `len` can state. -/
theorem Ports.length_seq (o : Ports) : o.seq.length = o.len.toNat := by
  have atMostThree : o.len.toNat ≤ 3 := Nat.le_of_lt_succ o.len.isLt
  rw [Ports.seq, List.length_take]
  exact Nat.min_eq_left atMostThree

/-! ## The slots (R78) -/

theorem toPS2_seq0 (s : State) (code : Byte) (f : Bool) :
    (s.toPS2 code f).2.seq0 =
      if (s.toPS2 code f).2.len = 3 then (s.toPS2 code f).2.res.extractLsb' 16 8
      else if (s.toPS2 code f).2.len = 2 then (s.toPS2 code f).2.res.extractLsb' 8 8
      else (s.toPS2 code f).2.res.extractLsb' 0 8 := rfl

theorem toPS2_seq1 (s : State) (code : Byte) (f : Bool) :
    (s.toPS2 code f).2.seq1 =
      if (s.toPS2 code f).2.len = 3 then (s.toPS2 code f).2.res.extractLsb' 8 8
      else if (s.toPS2 code f).2.len = 2 then (s.toPS2 code f).2.res.extractLsb' 0 8
      else 0x00 := rfl

theorem toPS2_seq2 (s : State) (code : Byte) (f : Bool) :
    (s.toPS2 code f).2.seq2 =
      if (s.toPS2 code f).2.len = 3 then (s.toPS2 code f).2.res.extractLsb' 0 8 else 0x00 := rfl

/-! ## The packed number and the sequence (R79) -/

/-- One round of R79's packing appends a byte below the low two bytes of the number so far. -/
theorem shiftLeft_or_setWidth_eq_append (acc : Packed) (b : Byte) :
    acc <<< 8 ||| b.setWidth 24 = acc.extractLsb' 0 16 ++ b := by
  refine BitVec.eq_of_getLsbD_eq fun i inRange => ?_
  rw [BitVec.getLsbD_or, BitVec.getLsbD_shiftLeft, BitVec.getLsbD_setWidth, BitVec.getLsbD_append,
    BitVec.getLsbD_extractLsb']
  by_cases low : i < 8
  · simp [low, inRange]
  · have kept : i - 8 < 16 := by omega
    have above : b.getLsbD i = false := BitVec.getLsbD_of_ge b i (Nat.le_of_not_lt low)
    simp [low, inRange, kept, above]

/-- The last byte of a list is the lowest of its packed number. -/
theorem packBytes_concat (bytes : List Byte) (b : Byte) :
    packBytes (bytes ++ [b]) = (packBytes bytes).extractLsb' 0 16 ++ b := by
  rw [packBytes, List.foldl_concat, shiftLeft_or_setWidth_eq_append, packBytes]

/-- The sequence of a layout packs to its result: the prefixes above the payload, whatever the payload is. -/
theorem packBytes_layout_seq (key : KeyCode) (isExt isBreak brk : Bool) (payload : Byte) :
    packBytes ((Layout.of isExt isBreak).ports key brk payload).seq = (Layout.of isExt isBreak).res payload := by
  rw [layout_seq, packBytes_concat]
  cases isExt <;> cases isBreak <;> rfl

/-- The bytes above the payload are zero exactly where no prefix stands, so they tell the length. -/
theorem recoveredLen_layout_res (isExt isBreak : Bool) (payload : Byte) :
    recoveredLen ((Layout.of isExt isBreak).res payload) = lengthOf isExt isBreak := by
  rw [recoveredLen, layout_top, layout_middle]
  cases isExt <;> cases isBreak <;> rfl

/-! ## The statements on the sequencer -/

/-- Settles O12: the step is R75's function, and its result is the layout of the two flags around the payload. -/
theorem stepIsTheCompleteFunction : Obligations.StepIsTheCompleteFunction :=
  fun s code f => ⟨evaluates_toPS2 s code f, toPS2_lowest s code f, toPS2_middle s code f, toPS2_top s code f⟩

/-- Settles O42: `len` is a function of the two flags of the byte, in any state and with either mode flag. -/
theorem lengthIsOnePlusThePrefixes : Obligations.LengthIsOnePlusThePrefixes := by
  intro s s' code f
  refine ⟨_, _, _, _, evaluates_toPS2 s code f, evaluates_toPS2 s' code (!f), ?_, Ports.length_seq _, ?_⟩
  · rw [toPS2_len, lengthOf_toNat]
  · rw [toPS2_len, toPS2_len]

/-- Settles O43: R75's function cuts the slots out of the result by `len`, which is 1, 2 or 3. -/
theorem slotsAreTheBytesInSendingOrder : Obligations.SlotsAreTheBytesInSendingOrder := by
  intro s code f
  refine ⟨_, _, evaluates_toPS2 s code f, ?_⟩
  rw [toPS2_seq0, toPS2_seq1, toPS2_seq2]
  refine ⟨fun one => ?_, fun two => ?_, fun three => ?_, lengthOf_cases _ _⟩
  · rw [one]; exact ⟨rfl, rfl, rfl⟩
  · rw [two]; exact ⟨rfl, rfl, rfl⟩
  · rw [three]; exact ⟨rfl, rfl, rfl⟩

/-- Settles O44: both hold of the layout that the two flags choose, around any payload. -/
theorem packedAndSequenceAgree : Obligations.PackedAndSequenceAgree := by
  intro s code f
  refine ⟨_, _, evaluates_toPS2 s code f, ?_⟩
  rw [toPS2_ports]
  refine ⟨packBytes_layout_seq _ _ _ _ _, ?_⟩
  exact (recoveredLen_layout_res _ _ _).trans (layout_len_eq_lengthOf _ _).symm

end Sys2Proof.Machine
end

section
/-! SUPPORT. The general translate operations (45_operations.md section 1): the words of a key that is no arrow,
what each operation answers, and the statements on them. -/

namespace Sys2Proof

/-! ## The words of R83 to R86 -/

/-- The mode flag and the break flag stand above the key (R35). -/
theorem opWord_ofBool_append (set1 brk : Bool) (k : KeyCode) :
    opWord set1 (BitVec.ofBool brk ++ k) = BitVec.ofBool set1 ++ BitVec.ofBool brk ++ k := by
  rw [opWord, BitVec.append_assoc, BitVec.cast_eq]

/-- The words of a key that is no arrow decode to the general operation of the two flags. -/
theorem decodeOpWord_append_of_not_arrow (set1 brk : Bool) {k : KeyCode} (plain : KeyCode.isArrow k = false) :
    decodeOpWord (BitVec.ofBool set1 ++ BitVec.ofBool brk ++ k) = decodeGeneral set1 brk k := by
  have flag : (BitVec.ofBool brk ++ k : Byte).getLsbD 7 = brk := by
    rw [BitVec.getLsbD_append]; cases brk <;> rfl
  have key : (BitVec.ofBool brk ++ k : Byte).extractLsb' 0 7 = k := BitVec.extractLsb'_append_eq_right
  have fields := decodeOpWord_general (opWord set1 (BitVec.ofBool brk ++ k))
  rw [opWordSet1_opWord, opWordBreak_opWord, opWordKey_opWord, flag, key, opWord_ofBool_append] at fields
  exact fields plain

end Sys2Proof

namespace Sys2Proof.Machine

/-! ## What a general operation answers -/

/-- A general operation answers the base payload of its set, in the layout without the extended prefix (R40, R60). -/
theorem exec_decodeGeneral (s : State) (set1 brk : Bool) (k : KeyCode) :
    let base := if set1 then s.tableT1 k else s.tableT2 ((s.tableT1 k).extractLsb' 0 7)
    ∃ w, w.payload = base ∧
      exec (decodeGeneral set1 brk k) s =
        .next (s.withResult (.translated w ((Layout.of false brk).ports k brk base))) := by
  cases set1 <;> cases brk <;> exact ⟨_, rfl, rfl⟩

/-- The value of the payload fixes the packed result and the sequence of a key that is no arrow. -/
theorem plainPorts_of_payload_eq (k : KeyCode) (brk : Bool) {payload b : Byte} (value : payload = b) :
    ((Layout.of false brk).ports k brk payload).res = (Layout.of false brk).res b ∧
      ((Layout.of false brk).ports k brk payload).seq = (if brk then [0xF0#8] else []) ++ [b] := by
  subst value
  exact ⟨rfl, layout_seq k false brk brk payload⟩

/-! ## The Set-2 entry of a key -/

/-- An unmapped key reads T2 at index 0 (R56, R62). -/
theorem set2Entry_of_unmapped {s : State} {k : KeyCode} (unmapped : s.tableT1 k = 0x00) (zero : ZeroAtZero s.tableT2) :
    s.tableT2 ((s.tableT1 k).extractLsb' 0 7) = 0x00 := by
  rw [unmapped]; exact zero

/-- Key 0x1E is its own Set-1 code under R53, so T2 is read at 0x1E. -/
theorem set2Entry_of_fixedEntries {s : State} (fixed : FixedEntries s.tableT1) :
    s.tableT2 ((s.tableT1 0x1E).extractLsb' 0 7) = s.tableT2 0x1E := by
  obtain ⟨atA, -⟩ := fixed
  rw [atA]; rfl

/-! ## The operations of each set, on make and on break -/

/-- With Set 1 the payload is the T1 entry of the key, whose value R53 and R54 give where they fix it. -/
theorem set1_translates (brk : Bool) (s : State) (k : KeyCode) (plain : KeyCode.isArrow k = false) :
    let res := (Layout.of false brk).res
    let seq := fun payload : Byte => (if brk then [0xF0#8] else []) ++ [payload]
    (opWord true (BitVec.ofBool brk ++ k) = BitVec.ofBool true ++ BitVec.ofBool brk ++ k ∧
      decodeOpWord (BitVec.ofBool true ++ BitVec.ofBool brk ++ k) = decodeGeneral true brk k) ∧
    ∃ w o, exec (decodeGeneral true brk k) s = .next (s.withResult (.translated w o)) ∧
      w.payload = s.tableT1 k ∧ o.res = res (s.tableT1 k) ∧ o.len = (Layout.of false brk).len ∧
      o.seq = seq (s.tableT1 k) ∧ o.key = k ∧ o.isBreak = brk ∧ o.isMake = !brk ∧
      (s.tableT1 k = 0x00 → o.res = res 0x00 ∧ o.seq = seq 0x00) ∧
      (FixedEntries s.tableT1 → k = 0x00 → o.res = res 0x00) ∧
      (ZeroRange s.tableT1 → 0x45 ≤ k.toNat → k.toNat ≤ 0x64 → o.res = res 0x00) ∧
      (FixedEntries s.tableT1 → k = 0x1E → o.res = res 0x1E ∧ o.seq = seq 0x1E) := by
  obtain ⟨w, payload, answered⟩ := exec_decodeGeneral s true brk k
  have entry {b : Byte} (value : s.tableT1 k = b) := plainPorts_of_payload_eq k brk value
  refine ⟨⟨opWord_ofBool_append true brk k, decodeOpWord_append_of_not_arrow true brk plain⟩, w, _, answered,
    payload, (entry rfl).1, rfl, (entry rfl).2, rfl, rfl, rfl, entry, ?_,
    fun zeros low high => (entry (zeros k low high)).1, ?_⟩
  · rintro ⟨-, atZero⟩ rfl; exact (entry atZero).1
  · rintro ⟨atA, -⟩ rfl; exact entry atA

/-- With Set 2 the payload is the T2 entry at the low seven bits of the T1 entry of the key. -/
theorem set2_translates (brk : Bool) (s : State) (k : KeyCode) (plain : KeyCode.isArrow k = false) :
    let res := (Layout.of false brk).res
    let seq := fun payload : Byte => (if brk then [0xF0#8] else []) ++ [payload]
    let base := s.tableT2 ((s.tableT1 k).extractLsb' 0 7)
    (opWord false (BitVec.ofBool brk ++ k) = BitVec.ofBool false ++ BitVec.ofBool brk ++ k ∧
      decodeOpWord (BitVec.ofBool false ++ BitVec.ofBool brk ++ k) = decodeGeneral false brk k) ∧
    ∃ w o, exec (decodeGeneral false brk k) s = .next (s.withResult (.translated w o)) ∧
      w.payload = base ∧ o.res = res base ∧ o.len = (Layout.of false brk).len ∧
      o.seq = seq base ∧ o.key = k ∧ o.isBreak = brk ∧ o.isMake = !brk ∧
      (s.tableT1 k = 0x00 → ZeroAtZero s.tableT2 → o.res = res 0x00 ∧ o.seq = seq 0x00) ∧
      (base = 0x00 → o.res = res 0x00) ∧
      (FixedEntries s.tableT1 → k = 0x1E → o.res = res (s.tableT2 0x1E) ∧ o.seq = seq (s.tableT2 0x1E)) := by
  intro res seq base
  obtain ⟨w, payload, answered⟩ := exec_decodeGeneral s false brk k
  have entry {b : Byte} (value : base = b) := plainPorts_of_payload_eq k brk value
  refine ⟨⟨opWord_ofBool_append false brk k, decodeOpWord_append_of_not_arrow false brk plain⟩, w, _, answered,
    payload, (entry rfl).1, rfl, (entry rfl).2, rfl, rfl, rfl,
    fun unmapped zero => entry (set2Entry_of_unmapped unmapped zero), fun noEntry => (entry noEntry).1, ?_⟩
  rintro fixed rfl; exact entry (set2Entry_of_fixedEntries fixed)

/-! ## The statements on the general operations -/

/-- Settles O27: the Set-1 operation of a clear break flag, whose layout is the payload alone. -/
theorem xlatS1MkTranslates : Obligations.XlatS1MkTranslates := set1_translates false

/-- Settles O28: the Set-1 operation of a set break flag, whose layout puts 0xF0 before the same payload. -/
theorem xlatS1BrTranslates : Obligations.XlatS1BrTranslates := set1_translates true

/-- Settles O29: the Set-2 operation of a clear break flag, whose layout is the payload alone. -/
theorem xlatS2MkTranslates : Obligations.XlatS2MkTranslates := set2_translates false

/-- Settles O30: the Set-2 operation of a set break flag, whose layout puts 0xF0 before the same payload. -/
theorem xlatS2BrTranslates : Obligations.XlatS2BrTranslates := set2_translates true

end Sys2Proof.Machine
end

section
/-! SUPPORT. The arrow operations (46_arrow_operations.md): the fields of the word of a mode flag, a break flag and a key,
what the operation of an arrow key answers, and the statements on the four arrows. -/

namespace Sys2Proof

/-! ## The fields of a word written flag by flag (R35) -/

@[simp] theorem opWordBreak_opWord_append (set1 brk : Bool) (k : KeyCode) :
    opWordBreak (opWord set1 (BitVec.ofBool brk ++ k)) = brk := by
  rw [opWordBreak_opWord, BitVec.getLsbD_append]
  cases brk <;> rfl

@[simp] theorem opWordKey_opWord_append (set1 brk : Bool) (k : KeyCode) :
    opWordKey (opWord set1 (BitVec.ofBool brk ++ k)) = k := by
  rw [opWordKey_opWord, BitVec.extractLsb'_append_eq_right]

end Sys2Proof

namespace Sys2Proof.Machine

/-! ## What an arrow operation answers -/

/-- The word of an arrow key runs as the translation with the hard-coded payload of the key (R64, R65). -/
theorem exec_decodeOpWord_of_ext (s : State) (set1 brk : Bool) {k : KeyCode} (ext : isExtFlag k = true) :
    exec (decodeOpWord (opWord set1 (BitVec.ofBool brk ++ k))) s =
      .next (s.translate set1 brk k (some (arrowCode set1 k))) := by
  rw [exec_decodeOpWord, opWordSet1_opWord, opWordBreak_opWord_append, opWordKey_opWord_append,
    arrowPayload_eq_arrowCode, if_pos ext]

/-- The operation of an arrow key, with its word: the answer is the layout with the extended prefix around the hard-coded
payload, whatever the tables hold (R66, R67, R69). `decodeArrow` is the key's own part of the decoder. -/
theorem arrow_translates (s : State) {k : KeyCode} {decodeArrow : Bool → Bool → Instr} (ext : isExtFlag k = true)
    (decodes : ∀ w, opWordKey w = k → decodeOpWord w = decodeArrow (opWordSet1 w) (opWordBreak w)) (set1 brk : Bool) :
    let word := BitVec.ofBool set1 ++ BitVec.ofBool brk ++ k
    decodeOpWord word = decodeArrow set1 brk ∧ opWord set1 (BitVec.ofBool brk ++ k) = word ∧
      ∃ w o, exec (decodeArrow set1 brk) s = .next (s.withResult (.translated w o)) ∧
        w.isExt = true ∧ w.payload = arrowCode set1 k ∧
        o = (Layout.of true brk).ports k brk (arrowCode set1 k) ∧
        o.seq = [0xE0] ++ (if brk then [0xF0] else []) ++ [arrowCode set1 k] := by
  intro word
  have written : opWord set1 (BitVec.ofBool brk ++ k) = word := opWord_ofBool_append set1 brk k
  have decoded : decodeOpWord (opWord set1 (BitVec.ofBool brk ++ k)) = decodeArrow set1 brk := by
    rw [decodes _ (opWordKey_opWord_append set1 brk k), opWordSet1_opWord, opWordBreak_opWord_append]
  have answered := exec_decodeOpWord_of_ext s set1 brk ext
  rw [decoded] at answered
  exact ⟨written ▸ decoded, written, _, _, answered, rfl, rfl, rfl, layout_seq k true brk brk _⟩

/-! ## The statements on the arrow operations -/

/-- Settles O31: the operations of key 0x48, whose payload is 0x48 with Set 1 and 0x75 with Set 2. -/
theorem upArrowOperations : Obligations.UpArrowOperations := by
  intro s
  have operation := arrow_translates s (k := 0x48) rfl decodeOpWord_up
  exact ⟨operation true false, operation true true, operation false false, operation false true⟩

/-- Settles O32: the operations of key 0x50, whose payload is 0x50 with Set 1 and 0x72 with Set 2. -/
theorem downArrowOperations : Obligations.DownArrowOperations := by
  intro s
  have operation := arrow_translates s (k := 0x50) rfl decodeOpWord_down
  exact ⟨operation true false, operation true true, operation false false, operation false true⟩

/-- Settles O33: the operations of key 0x4B, whose payload is 0x4B with Set 1 and 0x6B with Set 2. -/
theorem leftArrowOperations : Obligations.LeftArrowOperations := by
  intro s
  have operation := arrow_translates s (k := 0x4B) rfl decodeOpWord_left
  exact ⟨operation true false, operation true true, operation false false, operation false true⟩

/-- Settles O34: the operations of key 0x4D, whose payload is 0x4D with Set 1 and 0x74 with Set 2. -/
theorem rightArrowOperations : Obligations.RightArrowOperations := by
  intro s
  have operation := arrow_translates s (k := 0x4D) rfl decodeOpWord_right
  exact ⟨operation true false, operation true true, operation false false, operation false true⟩

end Sys2Proof.Machine
end

section
/-! SUPPORT. Exceptions (60_exceptions.md): no operation raises one (R110), an unmapped key is framed like any other
(R111), and the precedence of the conditions that can hold together (R113). -/

namespace Sys2Proof.Machine

/-! ## The framing of a translation (R40, R111, R113) -/

/-- Above the payload a layout holds its prefixes alone (R40). -/
theorem layout_upper (isExt isBreak : Bool) (payload : Byte) :
    ((Layout.of isExt isBreak).res payload).extractLsb' 8 16 =
      (if isExt && isBreak then 0xE0#8 else 0x00#8) ++
        (if isBreak then 0xF0#8 else if isExt then 0xE0#8 else 0x00#8) := by
  cases isExt <;> cases isBreak <;> exact BitVec.extractLsb'_append_eq_left

/-- Bits 23 to 8 are those of the two flags of the byte, whatever the set. -/
theorem toPS2_upper (s : State) (code : Byte) (f : Bool) :
    (s.toPS2 code f).2.res.extractLsb' 8 16 =
      (if isExtFlag (keyOf code) && code.getLsbD 7 then 0xE0#8 else 0x00#8) ++
        (if code.getLsbD 7 then 0xF0#8 else if isExtFlag (keyOf code) then 0xE0#8 else 0x00#8) := by
  rw [toPS2_ports]
  exact layout_upper _ _ _

/-- An unmapped key gives the layout of the break flag around a zero payload (R56, R111). -/
theorem toPS2_ports_of_unmapped {s : State} {code : Byte} (f : Bool) (plain : isExtFlag (keyOf code) = false)
    (unmapped : s.tableT1 (keyOf code) = 0x00) (zero : ZeroAtZero s.tableT2) :
    (s.toPS2 code f).2 = (Layout.of false (code.getLsbD 7)).ports (keyOf code) (code.getLsbD 7) 0x00 := by
  rw [toPS2_ports, plain, toPS2_payload_of_unmapped f plain unmapped zero]

/-- An arrow key on break has both prefixes, 0xE0 above 0xF0 above the payload (R67, R71). -/
theorem toPS2_res_of_ext_of_break (s : State) {code : Byte} (f : Bool) (ext : isExtFlag (keyOf code) = true)
    (brk : code.getLsbD 7 = true) :
    (s.toPS2 code f).2.res = 0xE0#8 ++ 0xF0#8 ++ (s.toPS2 code f).1.payload := by
  rw [toPS2_ports, ext, brk]; rfl

/-- Any other key on break sends 0xF0 and then the payload, be it zero or not (R70, R71). -/
theorem toPS2_seq_of_not_ext_of_break (s : State) {code : Byte} (f : Bool) (plain : isExtFlag (keyOf code) = false)
    (brk : code.getLsbD 7 = true) : (s.toPS2 code f).2.seq = [0xF0, (s.toPS2 code f).1.payload] := by
  rw [toPS2_seq, plain, brk]; rfl

/-! ## The statements on exceptions -/

/-- Settles O9: an operation answers with its answer alone changed, and a step is an operation. -/
theorem noOperationFaultsOrIsRefused : Obligations.NoOperationFaultsOrIsRefused := by
  constructor
  · intro i s
    obtain ⟨r, answered⟩ := exec_answers i s
    exact ⟨_, answered⟩
  · intro s
    obtain ⟨r, answered⟩ := step_answers s
    exact ⟨_, answered⟩

/-- Settles O45: the step is R75's function, whose ports are then the layout of the break flag around zero. -/
theorem unmappedKeyIsFramedLikeAnyOther : Obligations.UnmappedKeyIsFramedLikeAnyOther := by
  intro s code f plain unmapped zero
  refine ⟨_, _, evaluates_toPS2 s code f, toPS2_payload_of_unmapped f plain unmapped zero, ?_⟩
  rw [toPS2_ports_of_unmapped f plain unmapped zero]
  constructor
  · intro make
    rw [make]; exact ⟨rfl, rfl, rfl⟩
  · intro brk
    rw [brk]; exact ⟨rfl, rfl, rfl⟩

/-- Settles O47: each clause is a fact about R75's function with either mode flag, and the framing is a function of the
two flags of the byte. -/
theorem precedenceOfConditions : Obligations.PrecedenceOfConditions := by
  intro s code
  refine ⟨_, _, _, _, evaluates_toPS2 s code true, evaluates_toPS2 s code false, fun ext => ?_, fun ext brk => ?_,
    fun plain brk => ?_, ?_, ?_, rfl, rfl, rfl⟩
  · exact ⟨toPS2_arrow_of_ext s true ext, toPS2_arrow_of_ext s false ext⟩
  · exact ⟨toPS2_res_of_ext_of_break s true ext brk, toPS2_res_of_ext_of_break s false ext brk⟩
  · have framed (f : Bool) (zero : (s.toPS2 code f).1.payload = 0x00) : (s.toPS2 code f).2.seq = [0xF0, 0x00] := by
      rw [toPS2_seq_of_not_ext_of_break s f plain brk, zero]
    exact ⟨framed true, framed false⟩
  · rw [toPS2_len, toPS2_len]
  · rw [toPS2_upper, toPS2_upper]

end Sys2Proof.Machine
end

section
/-! SUPPORT. The operation word and its bytes in both directions (30_encoding.md sections 1 and 3): the encoder against the
decoder, and the opcode table as data. -/

namespace Sys2Proof

/-! ## The words of the encoder (R35, R38) -/

/-- An operation word is its mode flag, its break flag and its key (R35). -/
theorem opWord_append_fields (w : OpWord) :
    BitVec.ofBool (opWordSet1 w) ++ BitVec.ofBool (opWordBreak w) ++ opWordKey w = w := by
  revert w; decide

/-- What holds of the words of the four arrow keys, written flag by flag, and of every word of another key holds of
every word. -/
theorem opWord_by_key {P : OpWord → Prop}
    (arrow : ∀ k, KeyCode.isArrow k = true → ∀ set1 brk, P (BitVec.ofBool set1 ++ BitVec.ofBool brk ++ k))
    (plain : ∀ w, KeyCode.isArrow (opWordKey w) = false → P w) (w : OpWord) : P w := by
  cases key : KeyCode.isArrow (opWordKey w) with
  | true => exact opWord_append_fields w ▸ arrow _ key (opWordSet1 w) (opWordBreak w)
  | false => exact plain w key

/-- Each of the sixteen words of the arrow keys is written as its operation's constant. -/
theorem encode_decodeOpWord_of_arrow : ∀ k : KeyCode, KeyCode.isArrow k = true → ∀ set1 brk : Bool,
    encode (decodeOpWord (BitVec.ofBool set1 ++ BitVec.ofBool brk ++ k)) =
      (.toPS2, opWordBytes (BitVec.ofBool set1 ++ BitVec.ofBool brk ++ k)) := by
  decide

theorem encode_decodeGeneral (set1 brk : Bool) (k : KeyCode) :
    encode (decodeGeneral set1 brk k) = (.toPS2, opWordBytes (BitVec.ofBool set1 ++ BitVec.ofBool brk ++ k)) := by
  cases set1 <;> cases brk <;> rfl

theorem encode_decodeOpWord_of_not_arrow (w : OpWord) (plain : KeyCode.isArrow (opWordKey w) = false) :
    encode (decodeOpWord w) = (.toPS2, opWordBytes w) := by
  rw [decodeOpWord_general w plain, encode_decodeGeneral, opWord_append_fields]

/-- The operation of a word is written as that word: the decoder drops no field of it. -/
theorem encode_decodeOpWord : ∀ w : OpWord, encode (decodeOpWord w) = (.toPS2, opWordBytes w) :=
  opWord_by_key encode_decodeOpWord_of_arrow encode_decodeOpWord_of_not_arrow

/-! ## What each format accepts (R35, R38; log 10) -/

/-- The encoding of a well-formed general operation decodes to it: its key is no arrow (R83). -/
theorem decode_encode_decodeGeneral (set1 brk : Bool) {k : KeyCode} (wf : (!KeyCode.isArrow k) = true) :
    decode .toPS2 (opWordBytes (BitVec.ofBool set1 ++ BitVec.ofBool brk ++ k)) = .ok (decodeGeneral set1 brk k) := by
  rw [decode_opWordBytes, decodeOpWord_append_of_not_arrow set1 brk ((Bool.not_eq_true' _).mp wf)]

/-- A tap takes its one byte and no other list. -/
theorem decodeRaw_eq_ok {make : Byte → Instr} {bytes : List Byte} {i : Instr} (accepted : decodeRaw make bytes = .ok i) :
    ∃ code, bytes = [code] ∧ i = make code := by
  unfold decodeRaw at accepted
  split at accepted
  next code => exact ⟨code, rfl, (Except.ok.inj accepted).symm⟩
  next => cases accepted

/-- A table read takes the byte of a 7-bit index and no other list. -/
theorem decodeRom_eq_ok {make : KeyCode → Instr} {bytes : List Byte} {i : Instr}
    (accepted : decodeRom make bytes = .ok i) : ∃ k, bytes = [0#1 ++ k] ∧ i = make k := by
  unfold decodeRom at accepted
  split at accepted
  next b =>
    split at accepted
    next => cases accepted
    next clear =>
      have index := Machine.zero_append_keyOf_of_bit_seven_clear (Bool.eq_false_iff.mpr clear)
      exact ⟨Machine.keyOf b, by rw [index], (Except.ok.inj accepted).symm⟩
  next => cases accepted

/-- Two bytes of which the second holds one bit alone are the bytes of an operation word. -/
theorem opWordBytes_opWord {flag : Byte} (code : Byte) (nineBits : flag.extractLsb' 1 7 = 0#7) :
    opWordBytes (opWord (flag.getLsbD 0) code) = [code, flag] := by
  have lowBit : ∀ b : Byte, b.extractLsb' 1 7 = 0#7 → BitVec.setWidth 8 (BitVec.ofBool (b.getLsbD 0)) = b := by decide
  rw [opWordBytes, opWord, BitVec.extractLsb'_append_eq_right, BitVec.extractLsb'_append_eq_left, lowBit flag nineBits]

/-- A translation takes the bytes of an operation word and no other list. -/
theorem decodeOpw_eq_ok {bytes : List Byte} {i : Instr} (accepted : decodeOpw bytes = .ok i) :
    ∃ w, bytes = opWordBytes w ∧ i = decodeOpWord w := by
  unfold decodeOpw at accepted
  split at accepted
  next code flag =>
    split at accepted
    next nineBits => exact ⟨_, (opWordBytes_opWord code nineBits).symm, (Except.ok.inj accepted).symm⟩
    next => cases accepted
  next => cases accepted

/-! ## The statements on the round trip -/

/-- Settles O2, by cases on the operation: an arrow's word is a constant, a general word has a key that is no arrow, and
the other formats hold their operand alone. -/
theorem decodeOfEncodeIsIdentity : Obligations.DecodeOfEncodeIsIdentity := by
  intro i wf
  cases i with
  | xlatS1Mk k => exact decode_encode_decodeGeneral true false wf
  | xlatS1Br k => exact decode_encode_decodeGeneral true true wf
  | xlatS2Mk k => exact decode_encode_decodeGeneral false false wf
  | xlatS2Br k => exact decode_encode_decodeGeneral false true wf
  | getKey | isBreak | isMake => rfl
  | st2s1 | s12s2 => exact decodeRom_index _ _
  | _ => exact decode_opWordBytes _

/-- Settles O3, by cases on the call: the bytes accepted are those of a word, a byte or an index, which the encoder
writes again. -/
theorem encodeOfDecodeIsIdentity : Obligations.EncodeOfDecodeIsIdentity := by
  intro c bytes i accepted
  cases c with
  | toPS2 =>
    obtain ⟨w, rfl, rfl⟩ := decodeOpw_eq_ok accepted
    exact ⟨decodeOpWord_wf w, encode_decodeOpWord w⟩
  | getKey | isBreak | isMake =>
    obtain ⟨code, rfl, rfl⟩ := decodeRaw_eq_ok accepted
    exact ⟨rfl, rfl⟩
  | stToPS2Set1 | ps2Set1ToSet2 =>
    obtain ⟨k, rfl, rfl⟩ := decodeRom_eq_ok accepted
    exact ⟨rfl, rfl⟩

/-- Settles O4: the operation is the one the word decodes to, and any other with these bytes decodes from them too. -/
theorem everyOperationWordIsExactlyOneOperation : Obligations.EveryOperationWordIsExactlyOneOperation := by
  intro w
  refine ⟨decodeOpWord w, ⟨decodeOpWord_wf w, encode_decodeOpWord w⟩, fun j wf encoded => ?_⟩
  have decoded : decode (encode j).1 (encode j).2 = .ok j := decodeOfEncodeIsIdentity j wf
  rw [encoded, decode_opWordBytes] at decoded
  exact (Except.ok.inj decoded).symm

/-- Settles O1: the bytes of a word mean the word, a tap's byte is its operand, and an index stands below a zero bit. -/
theorem specWordsDecode : Obligations.SpecWordsDecode :=
  ⟨decode_opWordBytes _, decode_opWordBytes _, decode_opWordBytes _, decode_opWordBytes _, decode_opWordBytes _,
    decode_opWordBytes _, decode_opWordBytes _, decode_opWordBytes _, decode_opWordBytes _, rfl, rfl, rfl,
    decodeRom_index _ 0x1E, decodeRom_index _ 0x7F⟩

/-! ## The opcode table as data (R38) -/

/-- An arrow row, of priority 1, fixes all nine bits, and its key is an arrow. -/
theorem arrowRow_bits : ∀ r ∈ opcodeRowsVertical ++ opcodeRowsHorizontal,
    r.mask = BitVec.allOnes 9 ∧ KeyCode.isArrow (opWordKey r.bits) = true := by
  decide

/-- No arrow row covers a word of a key that is no arrow. -/
theorem find?_arrowRows_of_not_arrow {w : OpWord} (plain : KeyCode.isArrow (opWordKey w) = false) :
    (opcodeRowsVertical ++ opcodeRowsHorizontal).find? (·.covers w) = none := by
  refine List.find?_eq_none.mpr fun r mem covered => ?_
  obtain ⟨mask, arrow⟩ := arrowRow_bits r mem
  rw [OpcodeRow.covers, mask, BitVec.and_allOnes] at covered
  have word : w = r.bits := of_decide_eq_true covered
  rw [← word, plain] at arrow
  cases arrow

/-- The mask of a general row keeps the two flags and drops the key. -/
theorem generalRow_mask (set1 brk : Bool) (k : KeyCode) :
    (BitVec.ofBool set1 ++ BitVec.ofBool brk ++ k : OpWord) &&& 0x180 = BitVec.ofBool set1 ++ BitVec.ofBool brk ++ 0#7 := by
  revert k; cases set1 <;> cases brk <;> decide

/-- The general row that covers a word is the one of its two flags. -/
theorem find?_generalRows (w : OpWord) :
    (opcodeRowsGeneral.find? (·.covers w)).map (·.make (opWordKey w)) =
      some (decodeGeneral (opWordSet1 w) (opWordBreak w) (opWordKey w)) := by
  have flags := generalRow_mask (opWordSet1 w) (opWordBreak w) (opWordKey w)
  rw [opWord_append_fields] at flags
  simp only [opcodeRowsGeneral, List.find?, OpcodeRow.covers, flags]
  cases opWordSet1 w <;> cases opWordBreak w <;> rfl

/-- Each of the sixteen words of the arrow keys stands in a row of its own. -/
theorem firstMatch_of_arrow : ∀ k : KeyCode, KeyCode.isArrow k = true → ∀ set1 brk : Bool,
    firstMatch (BitVec.ofBool set1 ++ BitVec.ofBool brk ++ k) =
      some (decodeOpWord (BitVec.ofBool set1 ++ BitVec.ofBool brk ++ k)) := by
  decide

/-- A word of a key that is no arrow falls through the arrow rows to the general row of its flags. -/
theorem firstMatch_of_not_arrow (w : OpWord) (plain : KeyCode.isArrow (opWordKey w) = false) :
    firstMatch w = some (decodeOpWord w) := by
  rw [decodeOpWord_general w plain, firstMatch, opcodeRows, List.find?_append, find?_arrowRows_of_not_arrow plain]
  exact find?_generalRows w

/-- Settles O5, by the key of the word: an arrow key has rows of its own, every other key the general rows. -/
theorem decoderFollowsTheOpcodeTable : Obligations.DecoderFollowsTheOpcodeTable :=
  opWord_by_key firstMatch_of_arrow firstMatch_of_not_arrow

end Sys2Proof
end

section
/-! SUPPORT. The words of the opcode table placed for the next step (30_encoding.md section 3; logs 11, 13). -/

namespace Sys2Proof

/-! ## Table words as numbers (log 11) -/

/-- A word whose bytes decode is read as what they decode to. -/
theorem decodeTableWord_of_decode {nbits w : Nat} {c : Call} {i : Instr} (call : tableCall nbits = some c)
    (fits : w < 2 ^ nbits) (decoded : decode c (tableBytes nbits w) = .ok i) : decodeTableWord nbits w = some i := by
  simp only [decodeTableWord, call, decoded, if_neg (Nat.not_le_of_lt fits)]

/-- The low bits of a wider word of a number are the narrower word of it. -/
theorem extractLsb'_ofNat_of_le {m n : Nat} (narrower : n ≤ m) (w : Nat) :
    (BitVec.ofNat m w).extractLsb' 0 n = BitVec.ofNat n w := by
  rw [← BitVec.setWidth_eq_extractLsb' narrower, BitVec.setWidth_ofNat_of_le narrower]

theorem keyOf_ofNat (w : Nat) : Machine.keyOf (BitVec.ofNat 8 w) = BitVec.ofNat 7 w :=
  extractLsb'_ofNat_of_le (by decide) w

theorem opWordSet1_ofNat (w : Nat) : opWordSet1 (BitVec.ofNat 9 w) = (w / 256 % 2 == 1) := by
  rw [opWordSet1, BitVec.getLsbD_ofNat, Nat.testBit_eq_decide_div_mod_eq]
  rfl

/-- The flag and the byte that the host cuts out of a number are the operation word of that number (R35). -/
theorem opWord_ofNat (w : Nat) : opWord (w / 256 % 2 == 1) (BitVec.ofNat 8 w) = BitVec.ofNat 9 w := by
  have fields := opWord_fields (BitVec.ofNat 9 w)
  rwa [opWordSet1_ofNat, extractLsb'_ofNat_of_le (by decide)] at fields

/-- The two bytes of a nine-bit number are those of the operation word. -/
theorem tableBytes_of_nineBits {w : Nat} (nineBits : w < 2 ^ 9) : tableBytes 16 w = opWordBytes (BitVec.ofNat 9 w) := by
  have top : BitVec.ofNat 8 (w / 256) = BitVec.setWidth 8 ((BitVec.ofNat 9 w).extractLsb' 8 1) := by
    refine BitVec.eq_of_toNat_eq ?_
    simp only [BitVec.toNat_ofNat, BitVec.toNat_setWidth, BitVec.extractLsb'_toNat, Nat.shiftRight_eq_div_pow]
    omega
  rw [opWordBytes, ← top, extractLsb'_ofNat_of_le (by decide)]
  rfl

/-- The byte of a seven-bit number is that of the index. -/
theorem tableBytes_of_sevenBits {w : Nat} (sevenBits : w < 2 ^ 7) : tableBytes 7 w = [0#1 ++ BitVec.ofNat 7 w] := by
  have clear : (BitVec.ofNat 8 w).getLsbD 7 = false := by
    rw [BitVec.getLsbD_ofNat, Nat.testBit_lt_two_pow sevenBits]; rfl
  have index := Machine.zero_append_keyOf_of_bit_seven_clear clear
  rw [← keyOf_ofNat, index]
  rfl

end Sys2Proof

namespace Sys2Proof.Machine

/-! ## The presented word (log 13) -/

theorem withFetchWord_sixteen_operation (s : State) (w : Nat) :
    (s.withFetchWord 16 w).operation = decodeOpWord (BitVec.ofNat 9 w) :=
  congrArg decodeOpWord (opWord_ofNat w)

theorem withFetchWord_eight_operation (s : State) (w : Nat) :
    (s.withFetchWord 8 w).operation = .getKey (BitVec.ofNat 8 w) := rfl

theorem withFetchWord_seven_operation (s : State) (w : Nat) :
    (s.withFetchWord 7 w).operation = .st2s1 (BitVec.ofNat 7 w) :=
  congrArg Instr.st2s1 (keyOf_ofNat w)

/-- Settles O8: a word of each width is read as the bytes of its format, and presented as the operation they hold. -/
theorem tableWordsRunAsDecoded : Obligations.TableWordsRunAsDecoded := by
  refine ⟨fun s w nineBits => ⟨?_, ?_⟩, fun s w eightBits => ⟨?_, ?_⟩, fun s w sevenBits => ⟨?_, ?_⟩⟩
  · refine decodeTableWord_of_decode (c := .toPS2) rfl (by omega) ?_
    rw [tableBytes_of_nineBits nineBits, decode_opWordBytes]
  · rw [step_eq, withFetchWord_sixteen_operation]
  · exact decodeTableWord_of_decode (c := .getKey) rfl eightBits rfl
  · rw [step_eq, withFetchWord_eight_operation]
  · refine decodeTableWord_of_decode (c := .stToPS2Set1) rfl sevenBits ?_
    rw [tableBytes_of_sevenBits sevenBits]
    exact decodeRom_index _ _
  · rw [step_eq, withFetchWord_seven_operation]

end Sys2Proof.Machine
end

section
/-! SUPPORT. The frame of an operation (10_state.md section 1), the tables at power-up and the conditions on them
(41_rom_tables.md section 2), the invariant and its steps, and power-up against every later evaluation
(70_reset_and_hazards.md section 1). -/

namespace Sys2Proof.Machine

/-! ## The frame of an operation -/

/-- Settles O11: a next state is the old one with another answer, and the answer is no field that the frame names. -/
theorem operationsChangeTheAnswerAlone : Obligations.OperationsChangeTheAnswerAlone := by
  intro i s t answered
  obtain ⟨r, rfl⟩ := exec_next answered
  exact ⟨rfl, rfl, withResult_memRead s r, rfl, rfl, rfl, rfl⟩

/-! ## The tables at power-up (R53, R54, R56, R57; logs 5 and 6) -/

theorem reset_tableT1 (k : KeyCode) : State.reset.tableT1 k = t1Unlisted k.toNat := rfl

theorem reset_fixedEntries : FixedEntries State.reset.tableT1 := ⟨rfl, rfl⟩

theorem reset_zeroRange : ZeroRange State.reset.tableT1 := by
  intro k low high
  rw [reset_tableT1, t1Unlisted, if_neg (by omega), if_neg (by omega), if_pos ⟨low, high⟩]

theorem reset_zeroAtZero : ZeroAtZero State.reset.tableT2 := rfl

/-- Each pinned entry of T1 has bit 7 clear, and the open entries are masked. -/
theorem t1Unlisted_sevenBit (a : Nat) : (t1Unlisted a).getLsbD 7 = false := by
  unfold t1Unlisted
  split
  · rfl
  split
  · rfl
  split
  · rfl
  exact getLsbD_seven_getKeyByte (Config.t1Open a)

theorem reset_admissible : Admissible State.reset.tableT1 State.reset.tableT2 where
  fixedEntries := reset_fixedEntries
  zeroRange := reset_zeroRange
  zeroAtZero := reset_zeroAtZero
  sevenBit k := t1Unlisted_sevenBit k.toNat

/-! ## The reference tables (R108, R109; log 18) -/

theorem refTables_admissible : Admissible refT1 refT2 where
  fixedEntries := ⟨rfl, rfl⟩
  zeroRange := by unfold ZeroRange; decide
  zeroAtZero := rfl
  sevenBit := by unfold SevenBit; decide

/-! ## What a translation answers is lawful (R40, R47, R59, R63, R65, R77, R79) -/

/-- The arrow wire shows nothing for a key that is no arrow (log 14). -/
theorem toPS2_arrow_of_not_ext (s : State) {code : Byte} (f : Bool) (plain : isExtFlag (keyOf code) = false) :
    (s.toPS2 code f).1.arrow = none :=
  if_neg (Bool.eq_false_iff.mp plain)

theorem toPS2_wires_lawful (s : State) (code : Byte) (f : Bool) :
    (s.toPS2 code f).1.Lawful (s.toPS2 code f).2 s.tableT1 s.tableT2 where
  portA := toPS2_t1 s code f
  portB := toPS2_t2 s code f
  mux := by
    cases f with
    | true => exact .inl (toPS2_base s code true)
    | false => exact .inr (toPS2_base s code false)
  extended := toPS2_isExt s code f
  override := by
    rw [toPS2_isExt]
    cases ext : isExtFlag (keyOf code) with
    | true => rw [toPS2_arrow_of_ext s f ext]; exact ⟨rfl, rfl⟩
    | false => rw [toPS2_arrow_of_not_ext s f ext]; exact ⟨toPS2_payload_of_not_ext s code f ext, rfl⟩
  lowest := toPS2_lowest s code f

theorem toPS2_ports_lawful (s : State) (code : Byte) (f : Bool) : (s.toPS2 code f).2.Lawful where
  top := toPS2_top s code f
  middle := toPS2_middle s code f
  length := toPS2_len s code f
  packed := by
    rw [toPS2_ports]
    exact packBytes_layout_seq _ _ _ _ _
  makeFlag := toPS2_isMake s code f

/-! ## The invariant -/

/-- An evaluation answers lawfully for the tables it reads, whatever the call. -/
theorem step_answers_lawful (s : State) :
    ∃ r : Result, step s = .next (s.withResult r) ∧ r.Lawful s.tableT1 s.tableT2 := by
  obtain ⟨t1, t2, call, code, f, r⟩ := s
  cases call with
  | toPS2 =>
    exact ⟨_, evaluates_toPS2 ⟨t1, t2, .toPS2, code, f, r⟩ code f, toPS2_wires_lawful _ code f,
      toPS2_ports_lawful _ code f⟩
  | getKey => exact ⟨_, exec_getKey code _, getLsbD_seven_getKeyByte code⟩
  | isBreak => exact ⟨_, exec_isBreak code _, trivial⟩
  | isMake => exact ⟨_, exec_isMake code _, trivial⟩
  | stToPS2Set1 => exact ⟨_, exec_st2s1 (keyOf code) _, keyOf code, rfl⟩
  | ps2Set1ToSet2 => exact ⟨_, exec_s12s2 (keyOf code) _, keyOf code, rfl⟩

/-- A lawful answer keeps the invariant: the rest of it speaks of the tables alone. -/
theorem State.Inv.withResult {s : State} (inv : s.Inv) {r : Result} (lawful : r.Lawful s.tableT1 s.tableT2) :
    (s.withResult r).Inv where
  t1Form := inv.t1Form
  t2Form := inv.t2Form
  tables := inv.tables
  answer := lawful

/-- Settles O15: a step replaces the answer by a lawful one and leaves the tables alone. -/
theorem stepKeepsTheInvariant : Obligations.StepKeepsTheInvariant := by
  intro s t inv stepped
  obtain ⟨r, answered, lawful⟩ := step_answers_lawful s
  obtain rfl : s.withResult r = t := Host.Outcome.next.inj (answered.symm.trans stepped)
  exact inv.withResult lawful

/-- Settles O16: nothing is listed, the unlisted entries are admissible, and no answer stands yet. -/
theorem powerUpMeetsTheInvariant : Obligations.PowerUpMeetsTheInvariant where
  t1Form := reset_cells_wf .t1
  t2Form := reset_cells_wf .t2
  tables := reset_admissible
  answer := trivial

/-- Settles O17: the entries are those the conditions on the tables name. -/
theorem tableEntriesAtPowerUp : Obligations.TableEntriesAtPowerUp := by
  obtain ⟨⟨atA, atZero⟩, zeroRange, zeroAtZero, sevenBit⟩ := reset_admissible
  exact ⟨atA, atZero, zeroRange, sevenBit, zeroAtZero⟩

/-- Settles O19: both pairs of tables meet every condition. -/
theorem referenceTablesAreAdmissible : Obligations.ReferenceTablesAreAdmissible :=
  ⟨refTables_admissible, reset_admissible⟩

/-! ## Power-up and later (R122) -/

/-- R75's function reads a state through its tables alone. -/
theorem toPS2_eq_of_cells_eq {s s' : State} (t1 : s.t1Cells = s'.t1Cells) (t2 : s.t2Cells = s'.t2Cells) :
    s.toPS2 = s'.toPS2 := by
  have tableT1 : s.tableT1 = s'.tableT1 := congrArg (Memory.read .t1) t1
  have tableT2 : s.tableT2 = s'.tableT2 := congrArg (Memory.read .t2) t2
  funext code f
  rw [State.toPS2, State.toPS2, tableT1, tableT2]

/-- Settles O18: a session leaves the tables of power-up, and an evaluation is a function of the tables and the pair. -/
theorem firstEvaluationIsLikeEveryOther : Obligations.FirstEvaluationIsLikeEveryOther := by
  intro l u out ran code f
  obtain ⟨u', ran', t1, t2⟩ := sessionIsTheConcatenationOfTranslations l State.reset
  obtain ⟨rfl, -⟩ := Prod.mk.inj (Host.Outcome.next.inj (ran'.symm.trans ran))
  have later := evaluates_toPS2 u' code f
  rw [toPS2_eq_of_cells_eq t1 t2] at later
  exact ⟨_, _, evaluates_toPS2 State.reset code f, later⟩

end Sys2Proof.Machine
end
